-- ==== Sys2Proof/Word.lean ====
section
/-! DEFINITION. The words and index types of the engine: values, packed words, command codes, register, station and
reorder-buffer indices. -/

namespace Sys2Proof

/-- One byte of a packed word in host memory (20_memory R73). -/
abbrev Byte := BitVec 8

/-- The packed instruction word `W` (30_encoding R96). -/
abbrev StreamWord := BitVec 32

/-- The command code `cmd[2:0]` (30_encoding R103). -/
abbrev CmdCode := BitVec 3

/-- `Val` of 00_scope R12: the spec treats register values, operands and results as signed integers (XLEN may be ∞),
reduced by `wrap` when XLEN is finite. -/
abbrev Val := Int

/-- A register index `0..31` (10_state R21, R22). -/
abbrev RegIx := Fin 32

/-- A reorder-buffer index `0..7`, which is also the renaming tag (10_state R33). -/
abbrev RobIx := Fin 8

/-- A reservation-station index `0..4` (10_state R29). -/
abbrev RsIx := Fin 5

end Sys2Proof
end

