-- ==== Sys2Proof/Config.lean ====
section
/-! DEFINITION. The implementation parameters of 00_scope R8 as one plain record, their defaults, and the free values. -/

namespace Sys2Proof

/-- `XLEN`: a width in bits, or ∞ for the source's exact integers (00_scope R8, R12; D1). -/
inductive XLen where
  | bits (n : Nat)
  | unbounded
deriving DecidableEq, Repr

/-- `DIV_ROUND` (41_arith R176; D2). -/
inductive DivRound where
  | floor
  | trunc
deriving DecidableEq, Repr

/-- The parameters of 00_scope R8. `PC_W` and `CNT_W` are ∞ (natural numbers, D3), `OFF_W` is 14 (30_encoding R96).
DESIGN CHOICE (log 1): they stand in State, so that one machine of the host's form covers every value of them. -/
structure Config where
  xlen : XLen
  divRound : DivRound
  /-- `REG_RESET`. -/
  regReset : Vector Val 32
  /-- `REG_SEED`. -/
  regSeed : Vector Val 32
  /-- `HIST_DEPTH`; `none` is ∞. -/
  histDepth : Option Nat
  /-- `STORE_COMMIT_WRITES_RD`. -/
  storeCommitWritesRd : Bool
  /-- `ISSUE_READS_READY_ROB`. -/
  issueReadsReadyRob : Bool
deriving DecidableEq, Repr

/-- FREE VALUE (log 3, DESIGN CHOICE): the seed of register `i` after power-on; `REG_SEED` has no default (D4). -/
opaque Config.freeSeed : RegIx → BitVec 32

/-- FREE VALUE (log 9, DESIGN CHOICE): the offset used by a branch that has none, issued at this index. `load_program`
refuses such a stream (30_encoding R94 (b)), so no reachable state uses it. -/
opaque Config.freeOffset : Nat → Int

/-- FREE VALUE (log 9, DESIGN CHOICE): the `target_pc` of a branch whose computed target is this negative integer.
`load_program` refuses such a stream (30_encoding R94 (c)), so no reachable state uses it. -/
opaque Config.freeTarget : Int → Nat

/-- The defaults of 00_scope R8, `REG_SEED` a free value. -/
def Config.default : Config where
  xlen := .bits 32
  divRound := .floor
  regReset := Vector.replicate 32 0
  regSeed := Vector.ofFn fun i => (Config.freeSeed i).toInt
  histDepth := none
  storeCommitWritesRd := true
  issueReadsReadyRob := false

end Sys2Proof
end

