-- ==== Sys2Proof/Syntax.lean ====
section
/-! DEFINITION. The instruction record of the stream, the unchecked record a host hands to `load_program`, and `Instr`:
one constructor per row of the opcode table. -/

namespace Sys2Proof

/-- The eight operations of the stream (00_scope R2; the order is that of 30_encoding R97). -/
inductive Op where
  | add | sub | mul | div | lw | sw | beq | bne
deriving DecidableEq, Repr

/-- `isBranch(op)` of 00_scope R15. -/
def Op.isBranch : Op → Bool
  | .beq | .bne => true
  | .add | .sub | .mul | .div | .lw | .sw => false

/-- `isStore(op)` of 00_scope R15. -/
def Op.isStore : Op → Bool
  | .sw => true
  | .add | .sub | .mul | .div | .lw | .beq | .bne => false

/-- `writesRename(op)` of 00_scope R15: the non-branch, non-store operations. -/
def Op.writesRename : Op → Bool
  | .add | .sub | .mul | .div | .lw => true
  | .sw | .beq | .bne => false

/-- An instruction record of the stream (30_encoding R90), its register indices already in range. -/
structure Record where
  op  : Op
  rd  : RegIx
  rs1 : RegIx
  rs2 : RegIx
  /-- The optional branch offset, a signed integer counting records (R92). -/
  off : Option Int
deriving DecidableEq, Repr

/-- A record as the host hands it to `load_program`: nothing has been checked yet (30_encoding R93, R94). -/
structure RawRecord where
  op  : Op
  rd  : Int
  rs1 : Int
  rs2 : Int
  off : Option Int
deriving DecidableEq, Repr

/-- One constructor per row of the opcode table: the eight operations of the stream, each with every field of its record
(30_encoding R90, R91), and the five host commands (30_encoding R103). `loadProgram` carries the stream of the side
interface as its argument (45_host_commands R248). -/
inductive Instr where
  | add (rd rs1 rs2 : RegIx) (off : Option Int)
  | sub (rd rs1 rs2 : RegIx) (off : Option Int)
  | mul (rd rs1 rs2 : RegIx) (off : Option Int)
  | div (rd rs1 rs2 : RegIx) (off : Option Int)
  | lw (rd rs1 rs2 : RegIx) (off : Option Int)
  | sw (rd rs1 rs2 : RegIx) (off : Option Int)
  | beq (rd rs1 rs2 : RegIx) (off : Option Int)
  | bne (rd rs1 rs2 : RegIx) (off : Option Int)
  | nop
  | step
  | stepBack
  | reset
  | loadProgram (p : List RawRecord)
deriving DecidableEq, Repr

/-- The instruction that a record of the stream is. -/
def Instr.ofRecord (r : Record) : Instr :=
  match r.op with
  | .add => .add r.rd r.rs1 r.rs2 r.off
  | .sub => .sub r.rd r.rs1 r.rs2 r.off
  | .mul => .mul r.rd r.rs1 r.rs2 r.off
  | .div => .div r.rd r.rs1 r.rs2 r.off
  | .lw => .lw r.rd r.rs1 r.rs2 r.off
  | .sw => .sw r.rd r.rs1 r.rs2 r.off
  | .beq => .beq r.rd r.rs1 r.rs2 r.off
  | .bne => .bne r.rd r.rs1 r.rs2 r.off

/-- The record of a stream instruction; a host command has none. -/
def Instr.record? : Instr → Option Record
  | .add rd rs1 rs2 off => some ⟨.add, rd, rs1, rs2, off⟩
  | .sub rd rs1 rs2 off => some ⟨.sub, rd, rs1, rs2, off⟩
  | .mul rd rs1 rs2 off => some ⟨.mul, rd, rs1, rs2, off⟩
  | .div rd rs1 rs2 off => some ⟨.div, rd, rs1, rs2, off⟩
  | .lw rd rs1 rs2 off => some ⟨.lw, rd, rs1, rs2, off⟩
  | .sw rd rs1 rs2 off => some ⟨.sw, rd, rs1, rs2, off⟩
  | .beq rd rs1 rs2 off => some ⟨.beq, rd, rs1, rs2, off⟩
  | .bne rd rs1 rs2 off => some ⟨.bne, rd, rs1, rs2, off⟩
  | .nop | .step | .stepBack | .reset | .loadProgram _ => none

end Sys2Proof
end

