-- ==== Sys2Proof/WellFormed.lean ====
section
/-! DEFINITION. Well-formedness: which instructions have a canonical code (30_encoding R98, R100), and `WF(p)` of a stream
handed to `load_program` (30_encoding R94), with the reasons of its refusal (60_exceptions R262). -/

namespace Sys2Proof

/-- The field an out-of-range register index stands in (60_exceptions R262). -/
inductive RegField where
  | rd | rs1 | rs2
deriving DecidableEq, Repr

/-- `LoadError(reason)`: the one refusal of the engine, of a malformed stream at `load_program` (60_exceptions R262). `i` is
the index of the failing record. -/
inductive LoadError where
  | regIndexOutOfRange (i : Nat) (field : RegField)
  | branchOffsetMissing (i : Nat)
  | branchTargetNegative (i : Nat)
deriving DecidableEq, Repr

/-- A register index the spec admits: `0..31` (30_encoding R94 (a)). -/
def regInRange (x : Int) : Bool := 0 ≤ x && x < 32

/-- Clause (b) of 30_encoding R94: a branch has an offset. -/
def RawRecord.offsetPresent (r : RawRecord) : Bool := !r.op.isBranch || r.off.isSome

/-- Clause (c) of 30_encoding R94 at index `i`: a branch's target is no negative number (true where clause (b) fails). -/
def RawRecord.targetNatural (i : Nat) (r : RawRecord) : Bool :=
  !r.op.isBranch || r.off.all fun o => 0 ≤ (i : Int) + 1 + o

/-- The three clauses of 30_encoding R94 for the record at index `i`. -/
def RawRecord.wf (i : Nat) (r : RawRecord) : Bool :=
  regInRange r.rd && regInRange r.rs1 && regInRange r.rs2 && r.offsetPresent && r.targetNatural i

/-- `WF(p)` of 30_encoding R94. -/
abbrev WfProgram (p : List RawRecord) : Prop := ∀ i, (h : i < p.length) → p[i].wf i = true

/-- Clauses (b) and (c) of 30_encoding R94 for a record that already stands at index `i` of a loaded stream. -/
def Record.wf (i : Nat) (r : Record) : Bool :=
  !r.op.isBranch || (r.off.isSome && r.off.all fun o => 0 ≤ (i : Int) + 1 + o)

/-- Clauses (b) and (c) of 30_encoding R94 for a loaded stream. -/
abbrev WfStream (p : List Record) : Prop := ∀ i, (h : i < p.length) → p[i].wf i = true

/-- An offset the 14-bit field of the packed word can hold (30_encoding R98). -/
def offFits (o : Int) : Bool := -8192 ≤ o && o ≤ 8191

/-- The record is canonical and has a packed word: the fields its operation ignores are zero or absent (30_encoding R100) and
a branch's offset is there and fits (R98). -/
def Record.canonical (r : Record) : Bool :=
  if r.op.isBranch then r.rd == 0 && (r.off.isSome && r.off.all offFits) else r.off == none

/-- A well-formed instruction: a stream instruction with a canonical packed word, or a host command. The stream a
`loadProgram` carries is free: whether the engine accepts it is `WfProgram`. -/
def Instr.wf (i : Instr) : Bool :=
  match i.record? with
  | some r => r.canonical
  | none => true

end Sys2Proof
end

