-- ==== Sys2Proof/Machine/State.lean ====
section
/-! DEFINITION. The state of one engine (10_state R20), its port, the two stop reasons, and the state after reset. -/

namespace Sys2Proof.Machine

/-- An operand slot of a station: a resolved value or a pending tag naming a ROB slot (10_state R30). -/
inductive Operand where
  | val (v : Val)
  | tag (b : RobIx)
deriving DecidableEq, Repr

/-- One reservation station (10_state R30). -/
structure RsEntry where
  busy : Bool
  op : Op
  /-- First operand, from `rs1`. -/
  j : Operand
  /-- Second operand, from `rs2`. -/
  k : Operand
  /-- Remaining latency countdown. -/
  lat : Nat
  /-- The ROB slot this operation writes. -/
  dest : RobIx
  /-- `pc_issue`. -/
  pcIssue : Nat
deriving DecidableEq, Repr

/-- `EMPTY_RS` (10_state R31). -/
def emptyRs : RsEntry := ⟨false, .add, .val 0, .val 0, 0, 0, 0⟩

/-- The lifecycle of a ROB entry (10_state R35). -/
inductive RobState where
  | waiting | executing | ready
deriving DecidableEq, Repr

/-- One reorder-buffer entry (10_state R34). -/
structure RobEntry where
  busy : Bool
  instr : Option Record
  state : RobState
  value : Val
  /-- The destination register; `none` for `BEQ`, `BNE`. -/
  dest : Option RegIx
  /-- `should_branch`. -/
  shouldBranch : Bool
  /-- `target_pc`. -/
  targetPc : Nat
deriving DecidableEq, Repr

/-- `EMPTY_ROB` (10_state R36). -/
def emptyRob : RobEntry := ⟨false, none, .waiting, 0, none, false, 0⟩

/-- One event of the trace log (10_state R42). -/
inductive TraceEvent where
  /-- `ISSUE(pc, instr, r, b)`. -/
  | issue (pc : Nat) (instr : Record) (r : RsIx) (b : RobIx)
  /-- `COMMIT(b, instr, value, flushed)`. -/
  | commit (b : RobIx) (instr : Record) (value : Val) (flushed : Bool)
deriving DecidableEq, Repr

/-- The components a Snapshot holds (10_state R20, R45): the live ones of the engine, and a stored copy of them. -/
structure Snapshot where
  cycle : Nat
  pc : Nat
  rs : Vector RsEntry 5
  rob : Vector RobEntry 8
  head : RobIx
  tail : RobIx
  rf : Vector Val 32
  rst : Vector (Option RobIx) 32
  committed : Nat
  bubbles : Nat
  flushes : Nat
  /-- The trace log, oldest event first. -/
  log : List TraceEvent
deriving DecidableEq, Repr

/-- What the host presents at one rising clock edge (45_host_commands R248). -/
structure HostInput where
  rst : Bool
  cmd : CmdCode
  /-- The stream on the side interface, read by `LOAD_PROGRAM` only. -/
  stream : List RawRecord
deriving DecidableEq, Repr

/-- The state of one engine (10_state R20), its parameters and its port. -/
structure State where
  /-- The parameters of 00_scope R8, written by no step (log 1). -/
  cfg : Config
  /-- The eleven Snapshot components (10_state R20). -/
  live : Snapshot
  /-- The loaded stream (10_state R43). -/
  prog : List Record
  /-- The history stack, newest Snapshot first (10_state R44). -/
  hist : List Snapshot
  /-- The MODEL's own field: what the host presents at the next clock edges, one entry an edge (log 4). -/
  inbox : List HostInput
  /-- The output `load_error` of 45_host_commands R248 as the last edge left it, with its reason (log 6). -/
  loadError : Option LoadError
deriving DecidableEq, Repr

/-- The engine raises no fault: no instruction traps in any state (60_exceptions R260). No constructor, so no step can
stop with one. -/
inductive Fault
deriving DecidableEq, Repr

/-- The reasons `exec` can refuse an instruction. -/
inductive Refusal where
  /-- Raised by a dispatch arm whose instruction has no meaning yet; safe. No arm of this model raises it. -/
  | notModelled (mnemonic : String)
deriving DecidableEq, Repr

/-- The live components after an initialising event that leaves these register values (10_state R47, 70_reset_and_hazards
R290). -/
def freshSnapshot (rf : Vector Val 32) : Snapshot where
  cycle := 0
  pc := 0
  rs := Vector.replicate 5 emptyRs
  rob := Vector.replicate 8 emptyRob
  head := 0
  tail := 0
  rf := rf
  rst := Vector.replicate 32 none
  committed := 0
  bubbles := 0
  flushes := 0
  log := []

/-- The engine right after construction (10_state R47, column 'construction'), with the default parameters of 00_scope R8
and no input presented. -/
def State.reset : State where
  cfg := Config.default
  live := freshSnapshot Config.default.regReset
  prog := []
  hist := []
  inbox := []
  loadError := none

end Sys2Proof.Machine
end

