-- ==== Sys2Proof/Machine/Table.lean ====
section
/-! DEFINITION. Reading and writing one entry of a fixed-size table (the register file, the status table, the stations, the
reorder buffer), and rebuilding a whole one. -/

namespace Sys2Proof.Machine

/-- Entry `i`. -/
def entry {α : Type} {n : Nat} (t : Vector α n) (i : Fin n) : α := t[i.val]

/-- The table with entry `i` replaced by `x`. -/
def setEntry {α : Type} {n : Nat} (t : Vector α n) (i : Fin n) (x : α) : Vector α n := t.set i.val x i.isLt

/-- The table whose entry `i` is `f i`. -/
def tabulate {α : Type} {n : Nat} (f : Fin n → α) : Vector α n := Vector.ofFn f

/-- The table whose every entry is `x`. -/
def filled {α : Type} (n : Nat) (x : α) : Vector α n := Vector.replicate n x

end Sys2Proof.Machine
end

