-- ==== Sys2Proof/Machine/Operands.lean ====
section
/-! DEFINITION. Values and operands: `wrap` (00_scope R12), the quotient (41_arith R176), operation classes and latencies
(00_scope R7, R15), operand slots and their resolution at Issue (40_engine_cycle R136), station choice (R135). -/

namespace Sys2Proof.Machine

/-- `wrap(v)` of 00_scope R12. -/
def wrap (x : XLen) (v : Int) : Val :=
  match x with
  | .bits n => (v + 2 ^ (n - 1)) % 2 ^ n - 2 ^ (n - 1)
  | .unbounded => v

/-- `divq(a, b)` of 41_arith R176: 0 for a zero divisor, else the quotient rounded as `DIV_ROUND` says (the two roundings
differ on inexact quotients of operands of opposite sign only). -/
def divq (round : DivRound) (a b : Int) : Int :=
  if b = 0 then 0
  else
    match round with
    | .floor => a.fdiv b
    | .trunc => a.tdiv b

/-- The two operation classes of 00_scope R15. -/
inductive OpClass where
  | addClass | mulClass
deriving DecidableEq, Repr

/-- `class(op)` of 00_scope R15. -/
def opClass : Op → OpClass
  | .add | .sub | .lw | .sw | .beq | .bne => .addClass
  | .mul | .div => .mulClass

/-- `LAT(op)` of 00_scope R7. -/
def latency : Op → Nat
  | .add => 2
  | .sub => 2
  | .mul => 4
  | .div => 10
  | .lw => 3
  | .sw => 2
  | .beq => 1
  | .bne => 1

/-- The stations of a class, lowest index first (10_state R29). -/
def stationsOf : OpClass → List RsIx
  | .addClass => [0, 1, 2]
  | .mulClass => [3, 4]

/-- The lowest-numbered free station of a class (40_engine_cycle R135). -/
def freeStation (rs : Vector RsEntry 5) (c : OpClass) : Option RsIx :=
  (stationsOf c).find? fun r => !(entry rs r).busy

/-- An operand is resolved when it is a value (10_state R30). -/
def Operand.resolved : Operand → Bool
  | .val _ => true
  | .tag _ => false

/-- The value of a resolved operand; a pending one is never asked for its value (40_engine_cycle R127). -/
def Operand.value : Operand → Val
  | .val v => v
  | .tag _ => 0

/-- Both operands of a station are resolved. -/
def RsEntry.resolved (e : RsEntry) : Bool := e.j.resolved && e.k.resolved

/-- What a broadcast of `v` on tag `q` does to one operand slot (40_engine_cycle R130). -/
def Operand.forward (q : RobIx) (v : Val) (o : Operand) : Operand := if o = .tag q then .val v else o

/-- Operand resolution at Issue for source register `s` (40_engine_cycle R136): the register when nothing is pending on it,
else the tag of its producer, or, with `ISSUE_READS_READY_ROB`, the producer's value when its slot is `ready`. -/
def readOperand (c : Config) (m : Snapshot) (s : RegIx) : Operand :=
  match entry m.rst s with
  | none => .val (entry m.rf s)
  | some q =>
    if c.issueReadsReadyRob && (entry m.rob q).state == .ready then .val (entry m.rob q).value else .tag q

end Sys2Proof.Machine
end

