-- ==== Sys2Proof/Machine/Flags.lean ====
section
/-! DEFINITION. The engine has no status flags and no condition codes (10_state R26); what stands in their place is the
outcome of a branch's own comparison (43_branch_flush R200, R201) and its target (R202). -/

namespace Sys2Proof.Machine

/-- `should_branch` of `BEQ` (43_branch_flush R200). -/
def beqTaken (a b : Val) : Bool := a == b

/-- `should_branch` of `BNE` (43_branch_flush R201). -/
def bneTaken (a b : Val) : Bool := a != b

/-- `target_pc = pc_issue + 1 + off` (43_branch_flush R202). A missing offset and a negative target, which `load_program`
refuses (30_encoding R94), give free values (log 9). -/
def branchTarget (pcIssue : Nat) (off : Option Int) : Nat :=
  let t : Int := (pcIssue : Int) + 1 + off.getD (Config.freeOffset pcIssue)
  if 0 ≤ t then t.toNat else Config.freeTarget t

end Sys2Proof.Machine
end

