-- ==== Sys2Proof/Machine/Results.lean ====
section
/-! DEFINITION. What Writeback computes for each operation (40_engine_cycle R128): one definition per operation. -/

namespace Sys2Proof.Machine

/-- The triple `(v, sb, tp)` of 40_engine_cycle R128. -/
structure Result where
  value : Val
  shouldBranch : Bool
  targetPc : Nat
deriving DecidableEq, Repr

/-- The result of an operation with a register result. -/
def Result.ofValue (v : Val) : Result := ⟨v, false, 0⟩

/-- The result of a branch: no value, the outcome, the target. -/
def Result.ofBranch (taken : Bool) (target : Nat) : Result := ⟨0, taken, target⟩

/-- `ADD`: sum (41_arith R171). -/
def addResult (c : Config) (a b : Val) : Result := .ofValue (wrap c.xlen (a + b))

/-- `SUB`: difference, operand 1 minus operand 2 (41_arith R172). -/
def subResult (c : Config) (a b : Val) : Result := .ofValue (wrap c.xlen (a - b))

/-- `MUL`: product (41_arith R173). -/
def mulResult (c : Config) (a b : Val) : Result := .ofValue (wrap c.xlen (a * b))

/-- `DIV`: integer quotient (41_arith R174, R176). -/
def divResult (c : Config) (a b : Val) : Result := .ofValue (wrap c.xlen (divq c.divRound a b))

/-- `LW`: the effective address; nothing is read (42_loadstore R190). -/
def lwResult (c : Config) (a b : Val) : Result := .ofValue (wrap c.xlen (a + b))

/-- `SW`: the effective address; nothing is stored (42_loadstore R191). -/
def swResult (c : Config) (a b : Val) : Result := .ofValue (wrap c.xlen (a + b))

/-- `BEQ` (43_branch_flush R200). -/
def beqResult (a b : Val) (pcIssue : Nat) (off : Option Int) : Result :=
  .ofBranch (beqTaken a b) (branchTarget pcIssue off)

/-- `BNE` (43_branch_flush R201). -/
def bneResult (a b : Val) (pcIssue : Nat) (off : Option Int) : Result :=
  .ofBranch (bneTaken a b) (branchTarget pcIssue off)

/-- The result of operation `op` on operand values `a` and `b`, issued at index `pcIssue`, with the record's offset
(40_engine_cycle R128). -/
def resultOf (c : Config) (op : Op) (a b : Val) (pcIssue : Nat) (off : Option Int) : Result :=
  match op with
  | .add => addResult c a b
  | .sub => subResult c a b
  | .mul => mulResult c a b
  | .div => divResult c a b
  | .lw => lwResult c a b
  | .sw => swResult c a b
  | .beq => beqResult a b pcIssue off
  | .bne => bneResult a b pcIssue off

/-- The result of a station: its operation on its two operands, the offset read through its ROB slot (40_engine_cycle R128,
43_branch_flush R202). -/
def stationResult (c : Config) (m : Snapshot) (e : RsEntry) : Result :=
  resultOf c e.op e.j.value e.k.value e.pcIssue ((entry m.rob e.dest).instr.bind Record.off)

end Sys2Proof.Machine
end

