-- ==== Sys2Proof/Machine/Ops.lean ====
section
/-! DEFINITION. The named operations over the state. The engine takes no exception and has no return from one
(60_exceptions R265, R266); the one operation that redirects control is `flush` (43_branch_flush R205), and the one that goes
back to a saved state is `popHistory` (44_history_undo R222). -/

namespace Sys2Proof.Machine

/-- `x[d] <- v` (00_scope R13). -/
def writeReg (c : Config) (m : Snapshot) (d : RegIx) (v : Int) : Snapshot :=
  { m with rf := setEntry m.rf d (wrap c.xlen v) }

/-- `if RST[d] = rob(b) then RST[d] <- none`: the conditional clear (40_engine_cycle R123). -/
def clearRename (m : Snapshot) (d : RegIx) (b : RobIx) : Snapshot :=
  if entry m.rst d = some b then { m with rst := setEntry m.rst d none } else m

/-- `Flush(t)` (43_branch_flush R205): all speculative state is discarded and `pc` is the target. -/
def flush (m : Snapshot) (t : Nat) : Snapshot :=
  { m with
    rs := filled 5 emptyRs
    rob := filled 8 emptyRob
    head := 0
    tail := 0
    rst := filled 32 none
    pc := t
    flushes := m.flushes + 1 }

/-- A bubble: no state change but the counter (40_engine_cycle R134). -/
def bubble (m : Snapshot) : Snapshot := { m with bubbles := m.bubbles + 1 }

/-- `cycle <- cycle + 1`, the last action of a step (40_engine_cycle R120). -/
def endCycle (m : Snapshot) : Snapshot := { m with cycle := m.cycle + 1 }

/-- `hist.push(S)` (44_history_undo R220, R225): with a finite `HIST_DEPTH` the oldest Snapshot beyond it is discarded. -/
def pushHistory (c : Config) (m : Snapshot) (hist : List Snapshot) : List Snapshot :=
  match c.histDepth with
  | none => m :: hist
  | some d => (m :: hist).take d

/-- `step_back` (44_history_undo R222, R223): the newest Snapshot becomes the live state; no-op on an empty history. -/
def popHistory (s : State) : State :=
  match s.hist with
  | [] => s
  | m :: rest => { s with live := m, hist := rest }

/-- `reset()`: the 'reset' column of 10_state R47. -/
def resetEngine (s : State) : State := { s with live := freshSnapshot s.cfg.regReset, hist := [] }

/-- Construction, on the port `rst` sampled high: the 'construction' column of 10_state R47 (70_reset_and_hazards R290). -/
def constructEngine (s : State) : State := { s with live := freshSnapshot s.cfg.regReset, prog := [], hist := [] }

/-- A successful `load_program(p)`: the 'load_program' column of 10_state R47. -/
def installProgram (s : State) (p : List Record) : State :=
  { s with live := freshSnapshot s.cfg.regSeed, prog := p, hist := [], loadError := none }

end Sys2Proof.Machine
end

