-- ==== Sys2Proof/Machine/Stages.lean ====
section
/-! DEFINITION. The four stages of a cycle, in the order they run (40_engine_cycle R120): Commit, Writeback, Execute, Issue;
and the cycle. -/

namespace Sys2Proof.Machine

/-- The register write and conditional clear of a committing non-branch instruction (40_engine_cycle R123): skipped for `SW`
when `STORE_COMMIT_WRITES_RD` is false (42_loadstore R191). -/
def commitWrite (c : Config) (m : Snapshot) (e : RobEntry) (i : Record) : Snapshot :=
  if i.op.isStore && !c.storeCommitWritesRd then m
  else
    match e.dest with
    | none => m
    | some d => clearRename (writeReg c m d e.value) d m.head

/-- Retire the slot at `head` and do the bookkeeping of 40_engine_cycle R126. -/
def retireHead (m : Snapshot) (e : RobEntry) (i : Record) : Snapshot :=
  { m with
    rob := setEntry m.rob m.head emptyRob
    head := m.head + 1
    committed := m.committed + 1
    log := m.log ++ [.commit m.head i e.value false] }

/-- Commit of a mispredicted branch (40_engine_cycle R125): the Flush, the counter and the trace line; `head` stays where the
Flush left it (C2). -/
def commitMispredicted (m : Snapshot) (e : RobEntry) (i : Record) : Snapshot :=
  let f := flush m e.targetPc
  { f with committed := f.committed + 1, log := f.log ++ [.commit m.head i 0 true] }

/-- The Commit stage (40_engine_cycle R122 to R126): only the slot at `head`, only when it is busy and ready. -/
def commitStage (c : Config) (m : Snapshot) : Snapshot :=
  let e := entry m.rob m.head
  if e.busy && e.state == .ready then
    match e.instr with
    | none => m
    | some i =>
      if i.op.isBranch then
        if e.shouldBranch then commitMispredicted m e i else retireHead m e i
      else retireHead (commitWrite c m e i) e i
  else m

/-- Eligibility for Writeback (40_engine_cycle R127). -/
def RsEntry.eligible (e : RsEntry) : Bool := e.busy && e.lat == 0 && e.resolved

/-- The stations that write back in this cycle, ascending (40_engine_cycle R127, R132). -/
def eligibleStations (m : Snapshot) : List RsIx := [0, 1, 2, 3, 4].filter fun r => (entry m.rs r).eligible

/-- What a broadcast of `v` on tag `q` does to one station (40_engine_cycle R130): only a busy one looks. -/
def RsEntry.forward (q : RobIx) (v : Val) (e : RsEntry) : RsEntry :=
  if e.busy then { e with j := e.j.forward q v, k := e.k.forward q v } else e

/-- The owning ROB slot receives the result and becomes `ready` (40_engine_cycle R129). -/
def RobEntry.receive (res : Result) (e : RobEntry) : RobEntry :=
  { e with value := res.value, shouldBranch := res.shouldBranch, targetPc := res.targetPc, state := .ready }

/-- Station `r` writes back: broadcast to the ROB, forwarding, release (40_engine_cycle R128 to R131). -/
def broadcast (c : Config) (m : Snapshot) (r : RsIx) : Snapshot :=
  let e := entry m.rs r
  let res := stationResult c m e
  { m with
    rob := setEntry m.rob e.dest ((entry m.rob e.dest).receive res)
    rs := setEntry (tabulate fun s => (entry m.rs s).forward e.dest res.value) r emptyRs }

/-- The Writeback stage (40_engine_cycle R127 to R132): the eligible set is fixed at its start. -/
def writebackStage (c : Config) (m : Snapshot) : Snapshot := (eligibleStations m).foldl (broadcast c) m

/-- The countdown of one station (40_engine_cycle R133). -/
def RsEntry.tick (e : RsEntry) : RsEntry := if e.busy && e.resolved then { e with lat := e.lat - 1 } else e

/-- The Execute stage (40_engine_cycle R133). -/
def executeStage (m : Snapshot) : Snapshot := { m with rs := tabulate fun r => (entry m.rs r).tick }

/-- The station entry a successful Issue writes (40_engine_cycle R137). -/
def issuedRs (c : Config) (m : Snapshot) (i : Record) : RsEntry where
  busy := true
  op := i.op
  j := readOperand c m i.rs1
  k := readOperand c m i.rs2
  lat := latency i.op
  dest := m.tail
  pcIssue := m.pc

/-- The ROB entry a successful Issue writes (40_engine_cycle R138). -/
def issuedRob (i : Record) : RobEntry where
  busy := true
  instr := some i
  state := .executing
  value := 0
  dest := if i.op.isBranch then none else some i.rd
  shouldBranch := false
  targetPc := 0

/-- A successful Issue into station `r` (40_engine_cycle R135 to R141): operands are read before the rename claim. -/
def dispatch (c : Config) (m : Snapshot) (i : Record) (r : RsIx) : Snapshot :=
  { m with
    rs := setEntry m.rs r (issuedRs c m i)
    rob := setEntry m.rob m.tail (issuedRob i)
    rst := if i.op.writesRename then setEntry m.rst i.rd (some m.tail) else m.rst
    log := m.log ++ [.issue m.pc i r m.tail]
    pc := m.pc + 1
    tail := m.tail + 1 }

/-- The Issue stage with record `i` at `pc` (40_engine_cycle R134, R135): a bubble for want of a station of its class or of a
ROB slot, else the dispatch. -/
def offer (c : Config) (m : Snapshot) (i : Record) : Snapshot :=
  match freeStation m.rs (opClass i.op) with
  | none => bubble m
  | some r => if (entry m.rob m.tail).busy then bubble m else dispatch c m i r

/-- The Issue stage (40_engine_cycle R134): past the end of the stream nothing changes. -/
def issueStage (c : Config) (prog : List Record) (m : Snapshot) : Snapshot :=
  match prog[m.pc]? with
  | none => m
  | some i => offer c m i

/-- Commit, Writeback and Execute, in this order. -/
def stagesBeforeIssue (c : Config) (m : Snapshot) : Snapshot := executeStage (writebackStage c (commitStage c m))

/-- The step up to the Issue stage: the Snapshot is pushed, then three stages run (40_engine_cycle R120). -/
def beginCycle (s : State) : State :=
  { s with hist := pushHistory s.cfg s.live s.hist, live := stagesBeforeIssue s.cfg s.live }

/-- One `step` command (40_engine_cycle R120). -/
def runCycle (s : State) : State :=
  let t := beginCycle s
  { t with live := endCycle (issueStage t.cfg t.prog t.live) }

/-- One cycle whose Issue stage is offered record `i` (log 11). -/
def runCycleIssuing (i : Record) (s : State) : State :=
  let t := beginCycle s
  { t with live := endCycle (offer t.cfg t.live i) }

end Sys2Proof.Machine
end

