-- ==== Sys2Proof/Machine/Arith.lean ====
section
/-! DEFINITION. `ADD`, `SUB`, `MUL`, `DIV` (41_arith). The meaning of a stream instruction is the cycle whose Issue stage is
offered it (40_engine_cycle R134 to R141, log 11); class, latency and rename claim come from Operands, the value its Writeback
computes from Results, its Commit from Stages. -/

namespace Sys2Proof.Machine

/-- `ADD rd rs1 rs2` (41_arith R171). -/
def execAdd (rd rs1 rs2 : RegIx) (off : Option Int) (s : State) : Host.Outcome State Fault Refusal :=
  .next (runCycleIssuing ⟨.add, rd, rs1, rs2, off⟩ s)

/-- `SUB rd rs1 rs2` (41_arith R172). -/
def execSub (rd rs1 rs2 : RegIx) (off : Option Int) (s : State) : Host.Outcome State Fault Refusal :=
  .next (runCycleIssuing ⟨.sub, rd, rs1, rs2, off⟩ s)

/-- `MUL rd rs1 rs2` (41_arith R173). -/
def execMul (rd rs1 rs2 : RegIx) (off : Option Int) (s : State) : Host.Outcome State Fault Refusal :=
  .next (runCycleIssuing ⟨.mul, rd, rs1, rs2, off⟩ s)

/-- `DIV rd rs1 rs2` (41_arith R174). -/
def execDiv (rd rs1 rs2 : RegIx) (off : Option Int) (s : State) : Host.Outcome State Fault Refusal :=
  .next (runCycleIssuing ⟨.div, rd, rs1, rs2, off⟩ s)

end Sys2Proof.Machine
end

