-- ==== Sys2Proof/Machine/Branch.lean ====
section
/-! DEFINITION. `BEQ`, `BNE` (43_branch_flush). -/

namespace Sys2Proof.Machine

/-- `BEQ rs1 rs2 off` (43_branch_flush R200); `rd` is ignored. -/
def execBeq (rd rs1 rs2 : RegIx) (off : Option Int) (s : State) : Host.Outcome State Fault Refusal :=
  .next (runCycleIssuing ⟨.beq, rd, rs1, rs2, off⟩ s)

/-- `BNE rs1 rs2 off` (43_branch_flush R201); `rd` is ignored. -/
def execBne (rd rs1 rs2 : RegIx) (off : Option Int) (s : State) : Host.Outcome State Fault Refusal :=
  .next (runCycleIssuing ⟨.bne, rd, rs1, rs2, off⟩ s)

end Sys2Proof.Machine
end

