-- ==== Sys2Proof/Machine/Load.lean ====
section
/-! DEFINITION. The check `load_program` makes of a stream and the reason it refuses one with (30_encoding R94,
60_exceptions R262). -/

namespace Sys2Proof.Machine

/-- A register index the host hands over, where it is in `0..31`. -/
def toRegIx (x : Int) : Option RegIx :=
  if h : 0 ≤ x ∧ x < 32 then some ⟨x.toNat, by omega⟩ else none

/-- The record at index `i`, or the first clause of 30_encoding R94 it fails, in the order (a), (b), (c); within (a) the fields
in the order `rd`, `rs1`, `rs2` (log 8). -/
def checkRecord (i : Nat) (r : RawRecord) : Except LoadError Record :=
  match toRegIx r.rd, toRegIx r.rs1, toRegIx r.rs2 with
  | none, _, _ => .error (.regIndexOutOfRange i .rd)
  | some _, none, _ => .error (.regIndexOutOfRange i .rs1)
  | some _, some _, none => .error (.regIndexOutOfRange i .rs2)
  | some rd, some rs1, some rs2 =>
    let checked : Record := ⟨r.op, rd, rs1, rs2, r.off⟩
    if r.op.isBranch then
      match r.off with
      | none => .error (.branchOffsetMissing i)
      | some o => if 0 ≤ (i : Int) + 1 + o then .ok checked else .error (.branchTargetNegative i)
    else .ok checked

/-- The records from index `i` on, or the refusal of the lowest failing index (60_exceptions R262). -/
def checkFrom (i : Nat) : List RawRecord → Except LoadError (List Record)
  | [] => .ok []
  | r :: rest =>
    match checkRecord i r with
    | .error e => .error e
    | .ok q =>
      match checkFrom (i + 1) rest with
      | .error e => .error e
      | .ok qs => .ok (q :: qs)

/-- The whole stream checked: `load_program` accepts it as these records, or refuses it with this reason. -/
def checkProgram (p : List RawRecord) : Except LoadError (List Record) := checkFrom 0 p

/-- `load_program(p)` (45_host_commands R241): a malformed stream leaves the state as it was and raises `load_error` (log 5). -/
def loadEngine (s : State) (p : List RawRecord) : State :=
  match checkProgram p with
  | .error e => { s with loadError := some e }
  | .ok q => installProgram s q

end Sys2Proof.Machine
end

