-- ==== Sys2Proof/Machine/Commands.lean ====
section
/-! DEFINITION. The host commands (45_host_commands R241 to R244, R248). -/

namespace Sys2Proof.Machine

/-- `NOP`: a clock edge with no command leaves the state unchanged (45_host_commands R248). -/
def execNop (s : State) : Host.Outcome State Fault Refusal := .next s

/-- `STEP` (45_host_commands R242): one cycle. -/
def execStep (s : State) : Host.Outcome State Fault Refusal := .next (runCycle s)

/-- `STEP_BACK` (45_host_commands R243). -/
def execStepBack (s : State) : Host.Outcome State Fault Refusal := .next (popHistory s)

/-- `RESET` (45_host_commands R244). -/
def execReset (s : State) : Host.Outcome State Fault Refusal := .next (resetEngine s)

/-- `LOAD_PROGRAM` (45_host_commands R241). -/
def execLoadProgram (p : List RawRecord) (s : State) : Host.Outcome State Fault Refusal := .next (loadEngine s p)

end Sys2Proof.Machine
end

