-- ==== Sys2Proof/Machine/LoadStore.lean ====
section
/-! DEFINITION. `LW`, `SW` (42_loadstore): an effective address and nothing else; there is no data memory (20_memory R72). -/

namespace Sys2Proof.Machine

/-- `LW rd rs1 rs2` (42_loadstore R190). -/
def execLw (rd rs1 rs2 : RegIx) (off : Option Int) (s : State) : Host.Outcome State Fault Refusal :=
  .next (runCycleIssuing ⟨.lw, rd, rs1, rs2, off⟩ s)

/-- `SW rd rs1 rs2` (42_loadstore R191). -/
def execSw (rd rs1 rs2 : RegIx) (off : Option Int) (s : State) : Host.Outcome State Fault Refusal :=
  .next (runCycleIssuing ⟨.sw, rd, rs1, rs2, off⟩ s)

end Sys2Proof.Machine
end

