-- ==== Sys2Proof/Machine/Dispatch.lean ====
section
/-! DEFINITION. One arm per constructor of `Instr`. -/

namespace Sys2Proof.Machine

def exec (i : Instr) (s : State) : Host.Outcome State Fault Refusal :=
  match i with
  | .add rd rs1 rs2 off => Sys2Proof.Machine.execAdd rd rs1 rs2 off s
  | .sub rd rs1 rs2 off => Sys2Proof.Machine.execSub rd rs1 rs2 off s
  | .mul rd rs1 rs2 off => Sys2Proof.Machine.execMul rd rs1 rs2 off s
  | .div rd rs1 rs2 off => Sys2Proof.Machine.execDiv rd rs1 rs2 off s
  | .lw rd rs1 rs2 off => Sys2Proof.Machine.execLw rd rs1 rs2 off s
  | .sw rd rs1 rs2 off => Sys2Proof.Machine.execSw rd rs1 rs2 off s
  | .beq rd rs1 rs2 off => Sys2Proof.Machine.execBeq rd rs1 rs2 off s
  | .bne rd rs1 rs2 off => Sys2Proof.Machine.execBne rd rs1 rs2 off s
  | .nop => Sys2Proof.Machine.execNop s
  | .step => Sys2Proof.Machine.execStep s
  | .stepBack => Sys2Proof.Machine.execStepBack s
  | .reset => Sys2Proof.Machine.execReset s
  | .loadProgram p => Sys2Proof.Machine.execLoadProgram p s

end Sys2Proof.Machine
end

