-- ==== Sys2Proof/Decode.lean ====
section
/-! DEFINITION. Decoding and encoding: the packed word R3O (30_encoding R96 to R100), the command codes (R103), bytes in the
order of 20_memory R73, and the fixed entry point `decodeTableWord`. -/

namespace Sys2Proof

/-- How an instruction reaches the engine: a packed word of the stream, or a code on the command port with the stream of
the side interface (30_encoding R95, R103; 45_host_commands R248). -/
inductive Code where
  | word (w : StreamWord)
  | command (cmd : CmdCode) (stream : List RawRecord)
deriving DecidableEq, Repr

/-- Why bytes are no code; every 32-bit word and every 3-bit code is one (30_encoding R101, R103). -/
inductive DecodeReject where
  /-- Fewer bytes than the transport form needs: a packed word has four (20_memory R73), a command one. -/
  | truncated
  /-- A byte above 7: `cmd` has three bits (30_encoding R103). -/
  | notACommandCode
deriving DecidableEq, Repr

/-- `OPS[opc]` of 30_encoding R97. -/
def opOfCode (c : BitVec 3) : Op :=
  match c.toNat with
  | 0 => .add
  | 1 => .sub
  | 2 => .mul
  | 3 => .div
  | 4 => .lw
  | 5 => .sw
  | 6 => .beq
  | _ => .bne

/-- The `opc` of an operation (30_encoding R97). -/
def codeOfOp : Op → BitVec 3
  | .add => 0
  | .sub => 1
  | .mul => 2
  | .div => 3
  | .lw => 4
  | .sw => 5
  | .beq => 6
  | .bne => 7

/-- A five-bit field as a register index. -/
def regOfBits (b : BitVec 5) : RegIx := ⟨b.toNat, b.isLt⟩

/-- A register index as a five-bit field. -/
def bitsOfReg (r : RegIx) : BitVec 5 := BitVec.ofNat 5 r.val

/-- `decode(W)` of 30_encoding R99, offset by R98. The `rd` of a branch is returned as found (R100, U5). -/
def decodeWord (w : StreamWord) : Record :=
  let op := opOfCode (w.extractLsb' 29 3)
  { op
    rd := regOfBits (w.extractLsb' 24 5)
    rs1 := regOfBits (w.extractLsb' 19 5)
    rs2 := regOfBits (w.extractLsb' 14 5)
    off := if op.isBranch then some (w.extractLsb' 0 14).toInt else none }

/-- The command of a code on the port (30_encoding R103): 5, 6 and 7 act as `NOP`; `LOAD_PROGRAM` takes the stream of the side
interface as its argument (45_host_commands R248). -/
def decodeCmd (cmd : CmdCode) (stream : List RawRecord) : Instr :=
  match cmd.toNat with
  | 1 => .step
  | 2 => .stepBack
  | 3 => .reset
  | 4 => .loadProgram stream
  | _ => .nop

/-- Every code decodes (30_encoding R99, R101, R103). -/
def decode : Code → Instr
  | .word w => .ofRecord (decodeWord w)
  | .command cmd stream => decodeCmd cmd stream

/-- The 32-bit word of four bytes, the lowest address first, little-endian (20_memory R73, D19). -/
def wordOfBytes (b0 b1 b2 b3 : Byte) : StreamWord := b3 ++ b2 ++ b1 ++ b0

/-- One packed word off the front of a byte sequence; total, rejecting by name. -/
def decodeStreamBytes : List Byte → Except DecodeReject (Instr × List Byte)
  | b0 :: b1 :: b2 :: b3 :: rest => .ok (decode (.word (wordOfBytes b0 b1 b2 b3)), rest)
  | _ => .error .truncated

/-- One command off the front of a byte sequence, with the stream of the side interface; total, rejecting by name. -/
def decodeCommandBytes (stream : List RawRecord) : List Byte → Except DecodeReject (Instr × List Byte)
  | b :: rest =>
    if b.toNat < 8 then .ok (decode (.command (b.extractLsb' 0 3) stream), rest) else .error .notACommandCode
  | [] => .error .truncated

/-- The four bytes of a word, the lowest address first (20_memory R73). -/
def bytesOfWord (w : StreamWord) : List Byte :=
  [w.extractLsb' 0 8, w.extractLsb' 8 8, w.extractLsb' 16 8, w.extractLsb' 24 8]

/-- The instruction the decoder reads from the `nbits` bits `w` of a row of the opcode table: up to one byte is a command code
(with an empty side interface), up to four bytes a packed word, stored as 20_memory R73 says. -/
def decodeTableWord (nbits w : Nat) : Option Instr :=
  let read : Except DecodeReject (Instr × List Byte) :=
    if nbits ≤ 8 then decodeCommandBytes [] [BitVec.ofNat 8 w]
    else if nbits ≤ 32 then decodeStreamBytes (bytesOfWord (BitVec.ofNat 32 w))
    else .error .truncated
  match read with
  | .ok (i, []) => some i
  | .ok (_, _ :: _) => none
  | .error _ => none

/-- The word with these fields (30_encoding R96). -/
def packWord (op : Op) (rd rs1 rs2 : BitVec 5) (off14 : BitVec 14) : StreamWord :=
  codeOfOp op ++ rd ++ rs1 ++ rs2 ++ off14

/-- `encode(i)` of 30_encoding R100: ignored fields are written as zero. A branch whose offset is absent or outside
`-8192..8191` has no packed word (R98). -/
def encodeRecord (r : Record) : Option StreamWord :=
  if r.op.isBranch then
    match r.off with
    | none => none
    | some o =>
      if offFits o then some (packWord r.op 0 (bitsOfReg r.rs1) (bitsOfReg r.rs2) (BitVec.ofInt 14 o)) else none
  else some (packWord r.op (bitsOfReg r.rd) (bitsOfReg r.rs1) (bitsOfReg r.rs2) 0)

/-- The code of a record, where it has one. -/
def encodeStream (r : Record) : Option Code := (encodeRecord r).map Code.word

/-- The code of an instruction, where it has one (30_encoding R98, R100, R103). -/
def encode : Instr → Option Code
  | .add rd rs1 rs2 off => encodeStream ⟨.add, rd, rs1, rs2, off⟩
  | .sub rd rs1 rs2 off => encodeStream ⟨.sub, rd, rs1, rs2, off⟩
  | .mul rd rs1 rs2 off => encodeStream ⟨.mul, rd, rs1, rs2, off⟩
  | .div rd rs1 rs2 off => encodeStream ⟨.div, rd, rs1, rs2, off⟩
  | .lw rd rs1 rs2 off => encodeStream ⟨.lw, rd, rs1, rs2, off⟩
  | .sw rd rs1 rs2 off => encodeStream ⟨.sw, rd, rs1, rs2, off⟩
  | .beq rd rs1 rs2 off => encodeStream ⟨.beq, rd, rs1, rs2, off⟩
  | .bne rd rs1 rs2 off => encodeStream ⟨.bne, rd, rs1, rs2, off⟩
  | .nop => some (.command 0 [])
  | .step => some (.command 1 [])
  | .stepBack => some (.command 2 [])
  | .reset => some (.command 3 [])
  | .loadProgram p => some (.command 4 p)

end Sys2Proof
end

