-- ==== Sys2Proof/Machine/Fetch.lean ====
section
/-! DEFINITION. Fetching: what the clock edge samples from the port (45_host_commands R248), and what the Issue stage fetches
from the stream (20_memory R71). -/

namespace Sys2Proof.Machine

/-- The input sampled at this edge; with nothing presented the edge carries no command, that is `NOP` (30_encoding R103). -/
def sampledInput (s : State) : HostInput :=
  match s.inbox with
  | [] => ⟨false, 0, []⟩
  | e :: _ => e

/-- The state once the port is sampled: the input is taken, and `load_error`, a pulse, is low again (log 6). -/
def takeInput (s : State) : State := { s with inbox := s.inbox.tail, loadError := none }

/-- The record the Issue stage of this state's next cycle fetches: `prog[pc]` after Commit, Writeback and Execute. -/
def fetchedRecord (s : State) : Option Record := (beginCycle s).prog[(beginCycle s).live.pc]?

/-- The stream with record `r` at index `i`, extended with copies of `r` where it is shorter. -/
def placeAt (p : List Record) (i : Nat) (r : Record) : List Record :=
  if i < p.length then p.set i r else p ++ List.replicate (i + 1 - p.length) r

/-- The state whose next edge presents this input. -/
def presentInput (s : State) (e : HostInput) : State := { s with inbox := e :: s.inbox }

/-- The state whose next edge is a `STEP` that fetches record `r`. -/
def presentRecord (s : State) (r : Record) : State :=
  presentInput { s with prog := placeAt s.prog (beginCycle s).live.pc r } ⟨false, 1, []⟩

end Sys2Proof.Machine
end

