-- ==== Sys2Proof/Machine/Step.lean ====
section
/-! DEFINITION. One step of the machine is one rising clock edge (45_host_commands R248), and where `withFetchWord` places an
instruction so that the next edge runs it. -/

namespace Sys2Proof.Machine

/-- One rising clock edge (45_host_commands R248): `rst` wins over the command (60_exceptions R264 (d)). -/
def step (s : State) : Host.Outcome State Fault Refusal :=
  if (sampledInput s).rst then .next (constructEngine (takeInput s))
  else exec (decodeCmd (sampledInput s).cmd (sampledInput s).stream) (takeInput s)

/-- `s` with the instruction of this table word where the next edge runs it (log 13): a command code on the port; a packed
word as the record the next cycle's Issue stage fetches, with `STEP` on the port. -/
def State.withFetchWord (s : State) (nbits w : Nat) : State :=
  if nbits ≤ 8 then presentInput s ⟨false, BitVec.ofNat 3 w, []⟩
  else presentRecord s (decodeWord (BitVec.ofNat 32 w))

end Sys2Proof.Machine
end

