-- ==== Sys2Proof/Machine/Binding.lean ====
section
/-! DEFINITION. The hardware binding of the state's fields (10_state R49): their least widths and the codes of the ROB state. No
rule of the engine depends on it. The `op` codes are `codeOfOp` of Decode, which R97 gives. -/

namespace Sys2Proof.Machine

/-- The least widths in bits of 10_state R49; `none` is ∞. -/
structure FieldWidths where
  val : Option Nat
  regIx : Nat
  robIx : Nat
  rsIx : Nat
  op : Nat
  /-- A pending bit, and a value or a tag. -/
  operand : Option Nat
  lat : Nat
  robState : Nat
  /-- `PC_W`: of `pc`, `pc_issue` and `target_pc`. -/
  pc : Option Nat
  /-- `CNT_W`: of the four counters. -/
  counter : Option Nat
deriving DecidableEq, Repr

/-- `XLEN` as a number of bits. -/
def valWidth : XLen → Option Nat
  | .bits n => some n
  | .unbounded => none

/-- The widths for these parameters (10_state R49); `PC_W` and `CNT_W` are ∞ (log 12). -/
def fieldWidths (c : Config) : FieldWidths where
  val := valWidth c.xlen
  regIx := 5
  robIx := 3
  rsIx := 3
  op := 3
  operand := (valWidth c.xlen).map fun n => 1 + max n 3
  lat := 4
  robState := 2
  pc := none
  counter := none

/-- The code of a ROB state (10_state R49). -/
def robStateCode : RobState → BitVec 2
  | .waiting => 0
  | .executing => 1
  | .ready => 2

/-- The ROB state of a code; 3 is unused (10_state R49). -/
def robStateOfCode (k : BitVec 2) : Option RobState :=
  match k.toNat with
  | 0 => some .waiting
  | 1 => some .executing
  | 2 => some .ready
  | _ => none

end Sys2Proof.Machine
end

