-- ==== Sys2Proof/Machine/Queries.lean ====
section
/-! DEFINITION. What the host can read between commands: `is_complete`, `get_metrics`, the accessors and the output ports
(45_host_commands R245 to R248). All are functions of the state and change nothing. Together they show every component but
`hist`, which has no accessor (10_state R46). -/

namespace Sys2Proof.Machine

/-- `is_complete()` (45_host_commands R245). -/
def isComplete (s : State) : Bool := s.prog.length ≤ s.live.pc && !(entry s.live.rob s.live.head).busy

/-- The five numbers of `get_metrics()` (45_host_commands R246); `ipc` is the exact rational (D20). -/
structure Metrics where
  cycles : Nat
  instructions : Nat
  ipc : Rat
  bubbles : Nat
  flushes : Nat
deriving DecidableEq, Repr

/-- `get_metrics()` (45_host_commands R246). -/
def getMetrics (s : State) : Metrics where
  cycles := s.live.cycle
  instructions := s.live.committed
  ipc := if s.live.cycle = 0 then 0 else (s.live.committed : Rat) / (s.live.cycle : Rat)
  bubbles := s.live.bubbles
  flushes := s.live.flushes

/-- Accessor of `RS[r]` (45_host_commands R247). -/
def readRs (s : State) (r : RsIx) : RsEntry := entry s.live.rs r

/-- Accessor of `ROB[b]` (45_host_commands R247). -/
def readRob (s : State) (b : RobIx) : RobEntry := entry s.live.rob b

/-- Accessor of `RF[i]` (45_host_commands R247). -/
def readRf (s : State) (i : RegIx) : Val := entry s.live.rf i

/-- Accessor of `RST[i]` (45_host_commands R247). -/
def readRst (s : State) (i : RegIx) : Option RobIx := entry s.live.rst i

/-- Accessor of the trace log (45_host_commands R247). -/
def readLog (s : State) : List TraceEvent := s.live.log

/-- Accessor of `pc` (10_state R46; R247 lets a model expose it). -/
def readPc (s : State) : Nat := s.live.pc

/-- Accessor of `head` (10_state R46; R247 lets a model expose it). -/
def readHead (s : State) : RobIx := s.live.head

/-- Accessor of `tail` (10_state R46; R247 lets a model expose it). -/
def readTail (s : State) : RobIx := s.live.tail

/-- Accessor of `prog` (10_state R46; R247 lets a model expose it). -/
def readProg (s : State) : List Record := s.prog

/-- The output ports of 45_host_commands R248, the accessor views apart. -/
structure Ports where
  complete : Bool
  mCycles : Nat
  mInstructions : Nat
  mBubbles : Nat
  mFlushes : Nat
  loadError : Bool
deriving DecidableEq, Repr

/-- The output ports as functions of the state (45_host_commands R248). -/
def readPorts (s : State) : Ports where
  complete := isComplete s
  mCycles := s.live.cycle
  mInstructions := s.live.committed
  mBubbles := s.live.bubbles
  mFlushes := s.live.flushes
  loadError := s.loadError.isSome

end Sys2Proof.Machine
end

