-- ==== Sys2Proof/Machine/Sequential.lean ====
section
/-! DEFINITION. The sequential machine of 70_reset_and_hazards R300: the reference a hazard-free run of the engine agrees
with. -/

namespace Sys2Proof.Machine

/-- A state of the sequential machine, with the two counts the proposition of R300 speaks of. -/
structure SeqState where
  x : Vector Val 32
  ip : Nat
  /-- Instructions executed. -/
  executed : Nat
  /-- Taken branches among them. -/
  taken : Nat
deriving DecidableEq, Repr

/-- The sequential machine at its start. -/
def SeqState.start (x : Vector Val 32) : SeqState := ⟨x, 0, 0, 0⟩

/-- One instruction by the 'sequential meaning' line of its rule (41_arith R171 to R174, 42_loadstore R190, R191,
43_branch_flush R200, R201); `SW` writes nothing when `STORE_COMMIT_WRITES_RD` is false. -/
def seqExec (c : Config) (i : Record) (q : SeqState) : SeqState :=
  let res := resultOf c i.op (entry q.x i.rs1) (entry q.x i.rs2) q.ip i.off
  if i.op.isBranch then
    { q with
      ip := if res.shouldBranch then res.targetPc else q.ip + 1
      executed := q.executed + 1
      taken := if res.shouldBranch then q.taken + 1 else q.taken }
  else
    { q with
      x := if i.op.isStore && !c.storeCommitWritesRd then q.x else setEntry q.x i.rd res.value
      ip := q.ip + 1
      executed := q.executed + 1 }

/-- One step of the sequential machine; stopped at `ip >= L`. -/
def seqStep (c : Config) (prog : List Record) (q : SeqState) : SeqState :=
  match prog[q.ip]? with
  | none => q
  | some i => seqExec c i q

/-- `n` steps of the sequential machine. -/
def seqRun (c : Config) (prog : List Record) : Nat → SeqState → SeqState
  | 0, q => q
  | n + 1, q => seqRun c prog n (seqStep c prog q)

end Sys2Proof.Machine
end

