-- ==== Sys2Proof/Safety.lean ====
section
/-! DEFINITION. The terms the claims use: the invariants of 70_reset_and_hazards R294 and of 44_history_undo R227, values in
range (00_scope R12), the hazard events of R301 and R302, runs of `step` and `step_back` commands, the replay of the trace
log (R295), and the states in which one instruction is alone in the engine. No state of this machine is an error state: it
never faults (60_exceptions R260). -/

namespace Sys2Proof.Machine

/-! ### Runs -/

/-- `n` `step` commands. -/
def runSteps : Nat → State → State
  | 0, s => s
  | n + 1, s => runSteps n (runCycle s)

/-- `n` `step_back` commands. -/
def runUndo : Nat → State → State
  | 0, s => s
  | n + 1, s => runUndo n (popHistory s)

/-- The history `n` steps after `t`, where `t` is one cycle after `s`: the state before each of these cycles has been pushed, in
turn (44_history_undo R220, R225). -/
def historyThrough (s t : State) (n : Nat) : List Snapshot :=
  (s.live :: (List.range n).map fun k => (runSteps k t).live).foldl (fun h m => pushHistory s.cfg m h) s.hist

/-! ### Legal parameters and values -/

/-- The integers of `Val` (00_scope R12). -/
def inVal (x : XLen) (v : Int) : Bool :=
  match x with
  | .bits n => -(2 ^ (n - 1)) ≤ v && v < 2 ^ (n - 1)
  | .unbounded => true

/-- The parameter values 00_scope R8 admits: positive `XLEN` and `HIST_DEPTH`, register values in `Val`. -/
abbrev LegalConfig (c : Config) : Prop :=
  c.xlen ≠ .bits 0 ∧ c.histDepth ≠ some 0 ∧ (∀ i, inVal c.xlen (entry c.regReset i) = true) ∧
    ∀ i, inVal c.xlen (entry c.regSeed i) = true

/-- A resolved operand holds a `Val`. -/
def Operand.inVal (x : XLen) : Operand → Bool
  | .val v => Machine.inVal x v
  | .tag _ => true

/-- Every register, ROB result and resolved operand is a `Val`. -/
abbrev ValuesInRange (x : XLen) (m : Snapshot) : Prop :=
  (∀ i, inVal x (entry m.rf i) = true) ∧ (∀ b, inVal x (entry m.rob b).value = true) ∧
    ∀ r, (entry m.rs r).j.inVal x = true ∧ (entry m.rs r).k.inVal x = true

/-- Values are in range in the live state and in every stored Snapshot, under legal parameters. -/
abbrev ValuesInv (s : State) : Prop :=
  LegalConfig s.cfg ∧ ∀ m ∈ s.live :: s.hist, ValuesInRange s.cfg.xlen m

/-! ### The invariants of 70_reset_and_hazards R294 -/

/-- The ROB slot `k` places after `h`. -/
def slotAt (h : RobIx) (k : Nat) : RobIx := ⟨(h.val + k) % 8, Nat.mod_lt _ (by decide)⟩

/-- How many places slot `b` stands after `head`. -/
def age (m : Snapshot) (b : RobIx) : Nat := (b.val + 8 - m.head.val) % 8

/-- (I1): the busy slots are exactly the `n` slots from `head` on, and `tail` is the slot after them. -/
abbrev FifoInv (m : Snapshot) : Prop :=
  ∃ n : Fin 9, m.tail = slotAt m.head n.val ∧
    ∀ k : Fin 8, (entry m.rob (slotAt m.head k.val)).busy = decide (k.val < n.val)

/-- (I2): a busy slot is never `waiting`; a non-busy slot or station is the canonical empty record. -/
abbrev CanonicalInv (m : Snapshot) : Prop :=
  (∀ b, (entry m.rob b).busy = true → (entry m.rob b).state ≠ .waiting) ∧
    (∀ b, (entry m.rob b).busy = false → entry m.rob b = emptyRob) ∧
    ∀ r, (entry m.rs r).busy = false → entry m.rs r = emptyRs

/-- The `dest` Issue gives a slot of this record (40_engine_cycle R138). -/
def destOf (i : Record) : Option RegIx := if i.op.isBranch then none else some i.rd

/-- A busy slot holds a record, and its `dest` is that record's (10_state R34, 40_engine_cycle R138). -/
abbrev SlotInv (m : Snapshot) : Prop :=
  ∀ b, (entry m.rob b).busy = true → (entry m.rob b).instr.map destOf = some (entry m.rob b).dest

/-- (I3): a busy station names a busy, `executing` slot of its operation, no two the same one, and every busy `executing` slot
has its station. -/
abbrev PairInv (m : Snapshot) : Prop :=
  (∀ r, (entry m.rs r).busy = true →
      (entry m.rob (entry m.rs r).dest).busy = true ∧ (entry m.rob (entry m.rs r).dest).state = .executing ∧
        (entry m.rob (entry m.rs r).dest).instr.map Record.op = some (entry m.rs r).op) ∧
    (∀ r r', (entry m.rs r).busy = true → (entry m.rs r').busy = true →
      (entry m.rs r).dest = (entry m.rs r').dest → r = r') ∧
    ∀ b, (entry m.rob b).busy = true → (entry m.rob b).state = .executing →
      ∃ r, (entry m.rs r).busy = true ∧ (entry m.rs r).dest = b

/-- (I4): a busy station holds an operation of its class. -/
abbrev ClassInv (m : Snapshot) : Prop :=
  ∀ r, (entry m.rs r).busy = true → r ∈ stationsOf (opClass (entry m.rs r).op)

/-- Slot `b` is an in-flight renaming writer of register `d`. -/
def renamingWriter (m : Snapshot) (d : RegIx) (b : RobIx) : Bool :=
  (entry m.rob b).busy && (entry m.rob b).instr.any fun i => i.op.writesRename && i.rd == d

/-- What (I5) says of one register whose status entry is `p`. -/
def renameEntryOk (m : Snapshot) (d : RegIx) (p : Option RobIx) : Bool :=
  match p with
  | none => decide (∀ b, renamingWriter m d b = false)
  | some q => renamingWriter m d q && decide (∀ b, renamingWriter m d b = true → age m b ≤ age m q)

/-- (I5): the status table points at the youngest in-flight renaming writer of each register, or at none. -/
abbrev RenameInv (m : Snapshot) : Prop := ∀ d, renameEntryOk m d (entry m.rst d) = true

/-- (I6): the countdown never exceeds the latency, and has not begun while an operand is pending. -/
abbrev CountdownInv (m : Snapshot) : Prop :=
  ∀ r, (entry m.rs r).busy = true →
    (entry m.rs r).lat ≤ latency (entry m.rs r).op ∧
      ((entry m.rs r).resolved = false → (entry m.rs r).lat = latency (entry m.rs r).op)

/-- (I7): a busy station's slot holds the record its `pc_issue` names. -/
abbrev FetchInv (prog : List Record) (m : Snapshot) : Prop :=
  ∀ r, (entry m.rs r).busy = true →
    (entry m.rs r).pcIssue < prog.length ∧
      prog[(entry m.rs r).pcIssue]? = (entry m.rob (entry m.rs r).dest).instr

/-- (I1) to (I7) of one Snapshot, as one computable check. -/
def pipelineOk (prog : List Record) (m : Snapshot) : Bool :=
  decide (FifoInv m) && decide (CanonicalInv m) && decide (SlotInv m) && decide (PairInv m) && decide (ClassInv m) &&
    decide (RenameInv m) && decide (CountdownInv m) && decide (FetchInv prog m)

/-- (I1) to (I7) of the live state and of every stored Snapshot, over a stream that meets clauses (b) and (c) of
30_encoding R94. -/
abbrev EngineInv (s : State) : Prop :=
  WfStream s.prog ∧ ∀ m ∈ s.live :: s.hist, pipelineOk s.prog m = true

/-- The event is an `ISSUE`. -/
def TraceEvent.isIssue : TraceEvent → Bool
  | .issue _ _ _ _ => true
  | .commit _ _ _ _ => false

/-- The event is a `COMMIT`. -/
def TraceEvent.isCommit : TraceEvent → Bool
  | .issue _ _ _ _ => false
  | .commit _ _ _ _ => true

/-- The event is a `COMMIT` that flushed. -/
def TraceEvent.isFlush : TraceEvent → Bool
  | .issue _ _ _ _ => false
  | .commit _ _ _ flushed => flushed

/-- The number of busy ROB slots. -/
def occupancy (m : Snapshot) : Nat := (List.finRange 8).countP fun b => (entry m.rob b).busy

/-- (I8) of one Snapshot, the history apart: the counters agree with the log, and what has committed or is in flight was
issued. -/
abbrev BookInv (m : Snapshot) : Prop :=
  m.committed = m.log.countP TraceEvent.isCommit ∧ m.flushes = m.log.countP TraceEvent.isFlush ∧
    m.log.countP TraceEvent.isIssue + m.bubbles ≤ m.cycle ∧ m.flushes ≤ m.committed ∧ m.committed ≤ m.cycle ∧
    m.committed + occupancy m ≤ m.log.countP TraceEvent.isIssue

/-- (I8) of the live state and of every stored Snapshot. -/
abbrev BookkeepingInv (s : State) : Prop := ∀ m ∈ s.live :: s.hist, BookInv m

/-- The history below a state whose counter reads `cycle`: each Snapshot is one cycle older than the one above it, down to
cycle 0. -/
def histChain (cycle : Nat) : List Snapshot → Bool
  | [] => cycle == 0
  | m :: rest => cycle == m.cycle + 1 && histChain m.cycle rest

/-- 44_history_undo R227 and R225: an unbounded history reaches back to cycle 0, one Snapshot a cycle; a bounded one never
exceeds its depth. -/
def HistoryInv (s : State) : Bool :=
  match s.cfg.histDepth with
  | none => histChain s.live.cycle s.hist
  | some d => s.hist.length ≤ d

/-- Every pending tag names a busy, `executing` slot: the sentence of 10_state R32 that is no invariant of the literal rules
(C6). -/
abbrev TagInv (m : Snapshot) : Prop :=
  ∀ r b, (entry m.rs r).busy = true → ((entry m.rs r).j = .tag b ∨ (entry m.rs r).k = .tag b) →
    (entry m.rob b).busy = true ∧ (entry m.rob b).state = .executing

/-! ### Commit order -/

/-- The instructions issued and not yet committed, with their slots, after these trace events, starting from `q`, oldest first;
`none` when an event commits anything but the oldest one (70_reset_and_hazards R295, 'In-order commit'). -/
def replay (q : List (Record × RobIx)) : List TraceEvent → Option (List (Record × RobIx))
  | [] => some q
  | .issue _ i _ b :: es => replay (q ++ [(i, b)]) es
  | .commit b i _ flushed :: es =>
    match q with
    | [] => none
    | x :: rest => if x = (i, b) then replay (if flushed then [] else rest) es else none

/-- The instructions in the ROB with their slots, oldest first. -/
def inFlight (m : Snapshot) : List (Record × RobIx) :=
  (List.finRange 8).filterMap fun k =>
    if (entry m.rob (slotAt m.head k.val)).busy then
      (entry m.rob (slotAt m.head k.val)).instr.map fun i => (i, slotAt m.head k.val)
    else none

/-- Every `COMMIT` of the log names the oldest instruction then in flight, and the ROB holds what the log leaves in flight. -/
abbrev CommitOrderInv (s : State) : Prop := ∀ m ∈ s.live :: s.hist, replay [] m.log = some (inFlight m)

/-! ### Hazard events -/

/-- The record the next cycle's Issue stage dispatches, if it dispatches one (40_engine_cycle R134). -/
def issuedNext (s : State) : Option Record :=
  match fetchedRecord s with
  | none => none
  | some i =>
    match freeStation (beginCycle s).live.rs (opClass i.op) with
    | none => none
    | some _ => if (entry (beginCycle s).live.rob (beginCycle s).live.tail).busy then none else some i

/-- Register `d` is pending on a slot that is already `ready`. -/
def pendingOnReady (m : Snapshot) (d : RegIx) : Bool :=
  (entry m.rst d).any fun q => (entry m.rob q).state == .ready

/-- The stale-tag event of 70_reset_and_hazards R301 happens in the next cycle. -/
def staleTagEvent (s : State) : Bool :=
  !s.cfg.issueReadsReadyRob &&
    (issuedNext s).any fun i =>
      pendingOnReady (beginCycle s).live i.rs1 || pendingOnReady (beginCycle s).live i.rs2

/-- An `SW` whose `rd` is `d` is in flight. -/
def storeInFlight (m : Snapshot) (d : RegIx) : Bool :=
  (List.finRange 8).any fun b => (entry m.rob b).busy && (entry m.rob b).instr.any fun i => i.op.isStore && i.rd == d

/-- The unrenamed-store event of 70_reset_and_hazards R302 happens in the next cycle. -/
def unrenamedStoreEvent (s : State) : Bool :=
  s.cfg.storeCommitWritesRd &&
    (issuedNext s).any fun i =>
      storeInFlight (beginCycle s).live i.rs1 || storeInFlight (beginCycle s).live i.rs2

/-- No hazard event in the next `n` `step` commands. -/
def hazardFree : Nat → State → Bool
  | 0, _ => true
  | n + 1, s => !staleTagEvent s && !unrenamedStoreEvent s && hazardFree n (runCycle s)

/-! ### One instruction alone in the engine -/

/-- Nothing is in flight. -/
abbrev Quiescent (m : Snapshot) : Prop :=
  m.rs = filled 5 emptyRs ∧ m.rob = filled 8 emptyRob ∧ m.rst = filled 32 none ∧ m.head = m.tail

/-- `m` once record `i`, issued alone into station `r`, has committed `cycles` cycles later with result `v`, leaving the
registers `rf`: one trace event at Issue, one at Commit, and nothing else changed. -/
def committedAlone (m : Snapshot) (i : Record) (r : RsIx) (cycles : Nat) (v : Val) (rf : Vector Val 32) : Snapshot :=
  { m with
    cycle := m.cycle + cycles
    pc := m.pc + 1
    head := m.head + 1
    tail := m.tail + 1
    rf := rf
    committed := m.committed + 1
    log := m.log ++ [.issue m.pc i r m.head, .commit m.head i v false] }

/-- `m` when the taken branch `i`, issued alone, has flushed to `target` in the Commit stage of the fourth cycle. -/
def flushedAlone (m : Snapshot) (i : Record) (target : Nat) : Snapshot :=
  { m with
    cycle := m.cycle + 3
    pc := target
    head := 0
    tail := 0
    committed := m.committed + 1
    flushes := m.flushes + 1
    log := m.log ++ [.issue m.pc i 0 m.head, .commit m.head i 0 true] }

/-- `s` after the cycle that issues record `i` into station `r` (40_engine_cycle R137 to R140) with this latency and
destination, claiming the renaming of `rd` or not: `m` is the live state its Issue stage finds. -/
def afterIssue (s : State) (i : Record) (r : RsIx) (lat : Nat) (dest : Option RegIx) (claims : Bool) : State :=
  let m := (beginCycle s).live
  { beginCycle s with
    live :=
      { m with
        cycle := m.cycle + 1
        rs := setEntry m.rs r ⟨true, i.op, readOperand s.cfg m i.rs1, readOperand s.cfg m i.rs2, lat, m.tail, m.pc⟩
        rob := setEntry m.rob m.tail ⟨true, some i, .executing, 0, dest, false, 0⟩
        rst := if claims then setEntry m.rst i.rd (some m.tail) else m.rst
        log := m.log ++ [.issue m.pc i r m.tail]
        pc := m.pc + 1
        tail := m.tail + 1 } }

/-- `s` after a cycle whose Issue stage dispatches nothing and counts a bubble (40_engine_cycle R134). -/
def afterBubble (s : State) : State :=
  let m := (beginCycle s).live
  { beginCycle s with live := { m with cycle := m.cycle + 1, bubbles := m.bubbles + 1 } }

/-- The stations of `ADD SUB LW SW BEQ BNE` before station `r` are busy, `r` is one of them and free (40_engine_cycle R135). -/
abbrev FirstFreeAdd (m : Snapshot) (r : RsIx) : Prop :=
  r.val < 3 ∧ (entry m.rs r).busy = false ∧ ∀ q : RsIx, q < r → (entry m.rs q).busy = true

/-- The stations of `MUL DIV` before station `r` are busy, `r` is one of them and free (40_engine_cycle R135). -/
abbrev FirstFreeMul (m : Snapshot) (r : RsIx) : Prop :=
  3 ≤ r.val ∧ (entry m.rs r).busy = false ∧ ∀ q : RsIx, 3 ≤ q.val → q < r → (entry m.rs q).busy = true

/-- The stations that write back have pairwise different destinations (part of (I3)). -/
abbrev DistinctDests (m : Snapshot) : Prop :=
  ∀ r r', (entry m.rs r).eligible = true → (entry m.rs r').eligible = true →
    (entry m.rs r).dest = (entry m.rs r').dest → r = r'

/-- The outcome is a next state with this property. -/
def Completes (o : Host.Outcome State Fault Refusal) (p : State → Prop) : Prop := ∃ t, o = .next t ∧ p t

end Sys2Proof.Machine
end

