-- ==== Sys2Proof/Certificates/Slice0/Obligations.lean ====
section
/-! DEFINITION. The statements for the provers, each a closed proposition about the machine. -/

open Sys2Proof Sys2Proof.Machine

/-! ### Encoding -/

/-- Every well-formed instruction, host commands included, has a code that decodes to it; a packed word does so from its four
bytes too, whatever follows them. -/
def Obligations.InstructionCodesRoundTrip : Prop :=
  ∀ i : Instr, i.wf = true →
    ∃ c, encode i = some c ∧ decode c = i ∧
      ∀ w rest, c = .word w → decodeStreamBytes (bytesOfWord w ++ rest) = .ok (i, rest)

/-- 30_encoding R100: ignored fields are encoded as zero; decoding an encoded canonical record gives it back; encoding a decoded
word gives it back exactly when the word is canonical. -/
def Obligations.CanonicalWordsRoundTrip : Prop :=
  (∀ (r : Record) (w : StreamWord), encodeRecord r = some w →
    (r.op.isBranch = true → w.toNat / 2 ^ 24 % 32 = 0) ∧ (r.op.isBranch = false → w.toNat % 2 ^ 14 = 0)) ∧
  (∀ r : Record, r.canonical = true → ∃ w, encodeRecord r = some w ∧ decodeWord w = r) ∧
  ∀ w : StreamWord, encodeRecord (decodeWord w) = some w ↔
    if 6 ≤ w.toNat / 2 ^ 29 then w.toNat / 2 ^ 24 % 32 = 0 else w.toNat % 2 ^ 14 = 0

/-- 30_encoding R99: every word decodes, and each field of the record is the digit of the word its place says, the offset sign
extended from 14 bits for branches and absent otherwise. -/
def Obligations.DecodingReadsEveryField : Prop :=
  ∀ w : StreamWord,
    [Op.add, .sub, .mul, .div, .lw, .sw, .beq, .bne][w.toNat / 2 ^ 29]? = some (decodeWord w).op ∧
    (decodeWord w).rd.val = w.toNat / 2 ^ 24 % 32 ∧
    (decodeWord w).rs1.val = w.toNat / 2 ^ 19 % 32 ∧
    (decodeWord w).rs2.val = w.toNat / 2 ^ 14 % 32 ∧
    (decodeWord w).off =
      if 6 ≤ w.toNat / 2 ^ 29 then
        some (if w.toNat % 2 ^ 14 < 8192 then ((w.toNat % 2 ^ 14 : Nat) : Int) else ((w.toNat % 2 ^ 14 : Nat) : Int) - 16384)
      else none

/-- Five of the worked encodings of 30_encoding R106, one per corner of the format. -/
def Obligations.WorkedWordsDecode : Prop :=
  decode (.word 0x0110C000) = .add 1 2 3 none ∧ decode (.word 0x24094000) = .sub 4 1 5 none ∧
    decode (.word 0xA410C000) = .sw 4 2 3 none ∧ decode (.word 0xE0083FFE) = .bne 0 1 0 (some (-2)) ∧
    decode (.word 0xC0FFE000) = .beq 0 31 31 (some (-8192))

/-- 30_encoding R103: the command codes; 5, 6 and 7 act as `NOP`; and no command is an instruction of the stream. -/
def Obligations.CommandCodesDecode : Prop :=
  (∀ (k : CmdCode) (p : List RawRecord),
    (decode (.command k p)).record? = none ∧
    decode (.command k p) =
      if k.toNat = 1 then .step
      else if k.toNat = 2 then .stepBack
      else if k.toNat = 3 then .reset
      else if k.toNat = 4 then .loadProgram p
      else .nop) ∧
  ∀ w : StreamWord, (decode (.word w)).record? = some (decodeWord w)

/-! ### The clock edge -/

/-- The edge runs the decoded instruction: a command code is `exec` of its command on the state with the input taken; with
`STEP` on the port and record `i` fetched it is `exec` of `i`; and a word placed by `withFetchWord` is run by the very next
edge. -/
def Obligations.EdgeRunsTheDecodedInstruction : Prop :=
  (∀ s : State, (sampledInput s).rst = false →
    step s = exec (decode (.command (sampledInput s).cmd (sampledInput s).stream)) (takeInput s)) ∧
  (∀ (s : State) (i : Record), (sampledInput s).rst = false → (sampledInput s).cmd = 1 → fetchedRecord s = some i →
    step s = exec (Instr.ofRecord i) (takeInput s)) ∧
  ∀ (s : State) (w : Nat) (i : Instr),
    (decodeTableWord 32 w = some i → step (s.withFetchWord 32 w) = exec i (takeInput (s.withFetchWord 32 w))) ∧
    (decodeTableWord 8 w = some i → step (s.withFetchWord 8 w) = exec i (takeInput (s.withFetchWord 8 w)))

/-- Every edge and every instruction answers a next state in every state (00_scope R9, 60_exceptions R260). -/
def Obligations.EverythingCompletes : Prop :=
  (∀ s : State, ∃ t, step s = .next t) ∧ ∀ (i : Instr) (s : State), ∃ t, exec i s = .next t

/-- The port (45_host_commands R248): `rst` constructs the engine whatever the command, no input and the reserved codes leave it
as it is, and `NOP` completes without any change. -/
def Obligations.PortCommands : Prop :=
  (∀ s : State, (sampledInput s).rst = true →
    step s = .next { takeInput s with live := freshSnapshot s.cfg.regReset, prog := [], hist := [] }) ∧
  (∀ s : State, (sampledInput s).rst = false →
    ((sampledInput s).cmd.toNat = 0 ∨ 5 ≤ (sampledInput s).cmd.toNat) → step s = .next (takeInput s)) ∧
  ∀ s : State, exec .nop s = .next s

/-! ### Issue -/

/-- A stream instruction with a free station of its class and a free ROB slot completes its Issue: the station, the slot, the
rename claim, the trace line, `pc` and `tail` (40_engine_cycle R135 to R140), and nothing else. -/
def Obligations.StreamInstructionsIssue : Prop :=
  ∀ (s : State) (rd rs1 rs2 : RegIx) (off : Option Int) (r : RsIx),
    (entry (beginCycle s).live.rob (beginCycle s).live.tail).busy = false →
    (FirstFreeAdd (beginCycle s).live r →
      exec (.add rd rs1 rs2 off) s = .next (afterIssue s ⟨.add, rd, rs1, rs2, off⟩ r 2 (some rd) true) ∧
      exec (.sub rd rs1 rs2 off) s = .next (afterIssue s ⟨.sub, rd, rs1, rs2, off⟩ r 2 (some rd) true) ∧
      exec (.lw rd rs1 rs2 off) s = .next (afterIssue s ⟨.lw, rd, rs1, rs2, off⟩ r 3 (some rd) true) ∧
      exec (.sw rd rs1 rs2 off) s = .next (afterIssue s ⟨.sw, rd, rs1, rs2, off⟩ r 2 (some rd) false) ∧
      exec (.beq rd rs1 rs2 off) s = .next (afterIssue s ⟨.beq, rd, rs1, rs2, off⟩ r 1 none false) ∧
      exec (.bne rd rs1 rs2 off) s = .next (afterIssue s ⟨.bne, rd, rs1, rs2, off⟩ r 1 none false)) ∧
    (FirstFreeMul (beginCycle s).live r →
      exec (.mul rd rs1 rs2 off) s = .next (afterIssue s ⟨.mul, rd, rs1, rs2, off⟩ r 4 (some rd) true) ∧
      exec (.div rd rs1 rs2 off) s = .next (afterIssue s ⟨.div, rd, rs1, rs2, off⟩ r 10 (some rd) true))

/-- A stream instruction waits, and exactly one bubble is counted, when its class has no free station or the ROB is full
(40_engine_cycle R134). That `exec` of it is the cycle whose Issue stage is offered it is the model's choice (log 11). -/
def Obligations.StreamInstructionsWait : Prop :=
  ∀ (s : State) (rd rs1 rs2 : RegIx) (off : Option Int),
    (((entry (beginCycle s).live.rob (beginCycle s).live.tail).busy = true ∨
        ∀ q : RsIx, q.val < 3 → (entry (beginCycle s).live.rs q).busy = true) →
      ∀ i ∈ [Instr.add rd rs1 rs2 off, .sub rd rs1 rs2 off, .lw rd rs1 rs2 off, .sw rd rs1 rs2 off,
        .beq rd rs1 rs2 off, .bne rd rs1 rs2 off], exec i s = .next (afterBubble s)) ∧
    (((entry (beginCycle s).live.rob (beginCycle s).live.tail).busy = true ∨
        ∀ q : RsIx, 3 ≤ q.val → (entry (beginCycle s).live.rs q).busy = true) →
      ∀ i ∈ [Instr.mul rd rs1 rs2 off, .div rd rs1 rs2 off], exec i s = .next (afterBubble s))

/-- 40_engine_cycle R136: the three answers of operand resolution, and that Issue resolves both operands of every operation on
the state before its own rename claim. -/
def Obligations.OperandResolution : Prop :=
  (∀ (c : Config) (m : Snapshot) (d : RegIx),
    (entry m.rst d = none → readOperand c m d = .val (entry m.rf d)) ∧
    ∀ q, entry m.rst d = some q →
      readOperand c m d =
        if c.issueReadsReadyRob = true ∧ (entry m.rob q).state = .ready then .val (entry m.rob q).value else .tag q) ∧
  ∀ (c : Config) (m : Snapshot) (i : Record) (r : RsIx), freeStation m.rs (opClass i.op) = some r →
    (entry m.rob m.tail).busy = false →
    (entry (offer c m i).rs r).j = readOperand c m i.rs1 ∧ (entry (offer c m i).rs r).k = readOperand c m i.rs2

/-- Whatever the pipeline holds, a source register with an in-flight renaming writer that has no result yet is tagged with the
youngest of its writers (70_reset_and_hazards R295, 'Renaming correctness'). -/
def Obligations.ConsumersTagTheYoungestWriter : Prop :=
  ∀ (c : Config) (prog : List Record) (m : Snapshot) (d : RegIx) (q : RobIx),
    pipelineOk prog m = true → renamingWriter m d q = true →
    (∀ b, renamingWriter m d b = true → age m b ≤ age m q) →
    (entry m.rob q).state = .executing → readOperand c m d = .tag q

/-! ### One instruction alone in the engine: result, timing and frame -/

/-- `ADD` alone commits the sum (41_arith R171) five cycles after the one before its Issue, and changes nothing else but the
history, onto which each of the five cycles pushes the state before it. -/
def Obligations.AddAloneCommitsTheSum : Prop :=
  ∀ (s : State) (rd rs1 rs2 : RegIx) (off : Option Int), Quiescent s.live → s.prog.length ≤ s.live.pc + 1 →
    let v := wrap s.cfg.xlen (entry s.live.rf rs1 + entry s.live.rf rs2)
    Completes (exec (.add rd rs1 rs2 off) s) fun t =>
      runSteps 4 t =
        { s with
          hist := historyThrough s t 4
          live := committedAlone s.live ⟨.add, rd, rs1, rs2, off⟩ 0 5 v (setEntry s.live.rf rd v) }

/-- `SUB` alone commits operand 1 minus operand 2 (41_arith R172). -/
def Obligations.SubAloneCommitsTheDifference : Prop :=
  ∀ (s : State) (rd rs1 rs2 : RegIx) (off : Option Int), Quiescent s.live → s.prog.length ≤ s.live.pc + 1 →
    let v := wrap s.cfg.xlen (entry s.live.rf rs1 - entry s.live.rf rs2)
    Completes (exec (.sub rd rs1 rs2 off) s) fun t =>
      runSteps 4 t =
        { s with
          hist := historyThrough s t 4
          live := committedAlone s.live ⟨.sub, rd, rs1, rs2, off⟩ 0 5 v (setEntry s.live.rf rd v) }

/-- `MUL` alone commits the product (41_arith R173) from a multiply station, seven cycles after the one before its Issue. -/
def Obligations.MulAloneCommitsTheProduct : Prop :=
  ∀ (s : State) (rd rs1 rs2 : RegIx) (off : Option Int), Quiescent s.live → s.prog.length ≤ s.live.pc + 1 →
    let v := wrap s.cfg.xlen (entry s.live.rf rs1 * entry s.live.rf rs2)
    Completes (exec (.mul rd rs1 rs2 off) s) fun t =>
      runSteps 6 t =
        { s with
          hist := historyThrough s t 6
          live := committedAlone s.live ⟨.mul, rd, rs1, rs2, off⟩ 3 7 v (setEntry s.live.rf rd v) }

/-- `DIV` alone commits the quotient of 41_arith R176, 0 for a zero divisor, thirteen cycles after the one before its Issue. -/
def Obligations.DivAloneCommitsTheQuotient : Prop :=
  ∀ (s : State) (rd rs1 rs2 : RegIx) (off : Option Int), Quiescent s.live → s.prog.length ≤ s.live.pc + 1 →
    let a := entry s.live.rf rs1
    let b := entry s.live.rf rs2
    let v := wrap s.cfg.xlen (if b = 0 then 0 else divq s.cfg.divRound a b)
    Completes (exec (.div rd rs1 rs2 off) s) fun t =>
      runSteps 12 t =
        { s with
          hist := historyThrough s t 12
          live := committedAlone s.live ⟨.div, rd, rs1, rs2, off⟩ 3 13 v (setEntry s.live.rf rd v) }

/-- `LW` alone commits its effective address (42_loadstore R190), one cycle later than `ADD`; no memory exists to read. -/
def Obligations.LwAloneCommitsTheAddress : Prop :=
  ∀ (s : State) (rd rs1 rs2 : RegIx) (off : Option Int), Quiescent s.live → s.prog.length ≤ s.live.pc + 1 →
    let v := wrap s.cfg.xlen (entry s.live.rf rs1 + entry s.live.rf rs2)
    Completes (exec (.lw rd rs1 rs2 off) s) fun t =>
      runSteps 5 t =
        { s with
          hist := historyThrough s t 5
          live := committedAlone s.live ⟨.lw, rd, rs1, rs2, off⟩ 0 6 v (setEntry s.live.rf rd v) }

/-- `SW` alone commits its effective address (42_loadstore R191): to `rd` when `STORE_COMMIT_WRITES_RD`, to no register
otherwise; the trace line carries the address either way. -/
def Obligations.SwAloneCommitsTheAddress : Prop :=
  ∀ (s : State) (rd rs1 rs2 : RegIx) (off : Option Int), Quiescent s.live → s.prog.length ≤ s.live.pc + 1 →
    let v := wrap s.cfg.xlen (entry s.live.rf rs1 + entry s.live.rf rs2)
    Completes (exec (.sw rd rs1 rs2 off) s) fun t =>
      runSteps 4 t =
        { s with
          hist := historyThrough s t 4
          live :=
            committedAlone s.live ⟨.sw, rd, rs1, rs2, off⟩ 0 5 v
              (if s.cfg.storeCommitWritesRd = true then setEntry s.live.rf rd v else s.live.rf) }

/-- `BEQ` alone (43_branch_flush R200, R202): with unequal operands it retires; with equal ones the fourth cycle flushes to
`pc_issue + 1 + off` and goes on to issue from there. No register is written either way. -/
def Obligations.BeqAloneBranchesOnEqual : Prop :=
  ∀ (s : State) (rd rs1 rs2 : RegIx) (o : Int), Quiescent s.live → s.prog.length ≤ s.live.pc + 1 →
    0 ≤ (s.live.pc : Int) + 1 + o →
    let i : Record := ⟨.beq, rd, rs1, rs2, some o⟩
    Completes (exec (.beq rd rs1 rs2 (some o)) s) fun t =>
      runSteps 3 t =
        { s with
          hist := historyThrough s t 3
          live :=
            if entry s.live.rf rs1 = entry s.live.rf rs2 then
              endCycle (issueStage s.cfg s.prog (flushedAlone s.live i ((s.live.pc : Int) + 1 + o).toNat))
            else committedAlone s.live i 0 4 0 s.live.rf }

/-- `BNE` alone (43_branch_flush R201, R202): as `BEQ` with the outcome reversed. -/
def Obligations.BneAloneBranchesOnUnequal : Prop :=
  ∀ (s : State) (rd rs1 rs2 : RegIx) (o : Int), Quiescent s.live → s.prog.length ≤ s.live.pc + 1 →
    0 ≤ (s.live.pc : Int) + 1 + o →
    let i : Record := ⟨.bne, rd, rs1, rs2, some o⟩
    Completes (exec (.bne rd rs1 rs2 (some o)) s) fun t =>
      runSteps 3 t =
        { s with
          hist := historyThrough s t 3
          live :=
            if entry s.live.rf rs1 = entry s.live.rf rs2 then committedAlone s.live i 0 4 0 s.live.rf
            else endCycle (issueStage s.cfg s.prog (flushedAlone s.live i ((s.live.pc : Int) + 1 + o).toNat)) }

/-! ### The stages -/

/-- 40_engine_cycle R120: the Snapshot of the state before the stages is pushed, the stages run in the order Commit, Writeback,
Execute, Issue, each on the state the one before left, and the cycle counter goes up by one. -/
def Obligations.StepRunsTheStagesInOrder : Prop :=
  ∀ s : State,
    Completes (exec .step s) fun t =>
      t = { s with hist := pushHistory s.cfg s.live s.hist, live := t.live } ∧
      t.live =
        { issueStage s.cfg s.prog (executeStage (writebackStage s.cfg (commitStage s.cfg s.live))) with
          cycle := s.live.cycle + 1 }

/-- 40_engine_cycle R122: Commit does nothing unless the slot at `head` is busy and ready, and at most one instruction commits,
the one at `head`. -/
def Obligations.CommitInspectsHeadOnly : Prop :=
  ∀ (c : Config) (m : Snapshot),
    (((entry m.rob m.head).busy = false ∨ (entry m.rob m.head).state ≠ .ready) → commitStage c m = m) ∧
    (commitStage c m = m ∨
      ((commitStage c m).committed = m.committed + 1 ∧
        ∃ i v flushed, (commitStage c m).log = m.log ++ [.commit m.head i v flushed]))

/-- 40_engine_cycle R123 and R126: Commit of a non-branch writes its destination, clears the rename only if it still names this
slot, retires the slot and does the bookkeeping; `SW` skips the register and the rename when `STORE_COMMIT_WRITES_RD` is
false. -/
def Obligations.CommitWritesTheDestination : Prop :=
  ∀ (c : Config) (m : Snapshot) (i : Record) (d : RegIx),
    (entry m.rob m.head).busy = true → (entry m.rob m.head).state = .ready → (entry m.rob m.head).instr = some i →
    i.op ≠ .beq → i.op ≠ .bne → (entry m.rob m.head).dest = some d →
    let e := entry m.rob m.head
    let writes := i.op ≠ .sw ∨ c.storeCommitWritesRd = true
    let n := commitStage c m
    (∀ x, writes → x = d → entry n.rf x = wrap c.xlen e.value) ∧
    (∀ x, (x ≠ d ∨ ¬writes) → entry n.rf x = entry m.rf x) ∧
    (writes → entry m.rst d = some m.head → entry n.rst d = none) ∧
    (∀ x, (x ≠ d ∨ ¬writes ∨ entry m.rst d ≠ some m.head) → entry n.rst x = entry m.rst x) ∧
    (∀ b, entry n.rob b = if b = m.head then emptyRob else entry m.rob b) ∧
    n.head.val = (m.head.val + 1) % 8 ∧ n.committed = m.committed + 1 ∧
    n.log = m.log ++ [.commit m.head i e.value false] ∧
    n.rs = m.rs ∧ n.pc = m.pc ∧ n.tail = m.tail ∧ n.cycle = m.cycle ∧ n.bubbles = m.bubbles ∧ n.flushes = m.flushes

/-- 40_engine_cycle R124 and R126: Commit of a branch that was rightly predicted retires it and touches no register, rename or
`pc`. -/
def Obligations.CommitRetiresUntakenBranch : Prop :=
  ∀ (c : Config) (m : Snapshot) (i : Record),
    (entry m.rob m.head).busy = true → (entry m.rob m.head).state = .ready → (entry m.rob m.head).instr = some i →
    (i.op = .beq ∨ i.op = .bne) → (entry m.rob m.head).shouldBranch = false →
    let n := commitStage c m
    (∀ b, entry n.rob b = if b = m.head then emptyRob else entry m.rob b) ∧
    n.head.val = (m.head.val + 1) % 8 ∧ n.committed = m.committed + 1 ∧
    n.log = m.log ++ [.commit m.head i (entry m.rob m.head).value false] ∧
    n.rf = m.rf ∧ n.rst = m.rst ∧ n.rs = m.rs ∧ n.pc = m.pc ∧ n.tail = m.tail ∧ n.cycle = m.cycle ∧
    n.bubbles = m.bubbles ∧ n.flushes = m.flushes

/-- 40_engine_cycle R125 and 43_branch_flush R205: Commit of a mispredicted branch flushes everything in flight, sends `pc` to the
resolved target, counts one flush and one commit, leaves `head` at 0, and keeps every register. -/
def Obligations.CommitOfTakenBranchFlushes : Prop :=
  ∀ (c : Config) (m : Snapshot) (i : Record),
    (entry m.rob m.head).busy = true → (entry m.rob m.head).state = .ready → (entry m.rob m.head).instr = some i →
    (i.op = .beq ∨ i.op = .bne) → (entry m.rob m.head).shouldBranch = true →
    let n := commitStage c m
    (∀ r, entry n.rs r = emptyRs) ∧ (∀ b, entry n.rob b = emptyRob) ∧ (∀ d, entry n.rst d = none) ∧
    n.head = 0 ∧ n.tail = 0 ∧ n.pc = (entry m.rob m.head).targetPc ∧ n.flushes = m.flushes + 1 ∧
    n.committed = m.committed + 1 ∧ n.log = m.log ++ [.commit m.head i 0 true] ∧
    n.rf = m.rf ∧ n.cycle = m.cycle ∧ n.bubbles = m.bubbles

/-- 40_engine_cycle R127 to R131: every eligible station, that is every busy one with a finished countdown and both operands
resolved, writes back in the cycle: its slot receives the result and is `ready`, the station is emptied, and every other busy
station takes the value on each operand that waits for that slot; nothing else changes. Destinations are pairwise different
in every reachable state ((I3) of R294). -/
def Obligations.WritebackBroadcastsEveryResult : Prop :=
  (∀ e : RsEntry, e.eligible = true ↔ e.busy = true ∧ e.lat = 0 ∧ (∃ a, e.j = .val a) ∧ ∃ b, e.k = .val b) ∧
  ∀ (c : Config) (m : Snapshot), DistinctDests m →
    let n := writebackStage c m
    n = { m with rs := n.rs, rob := n.rob } ∧
    (∀ p, (entry m.rs p).eligible = true →
      let q := (entry m.rs p).dest
      let res := stationResult c m (entry m.rs p)
      entry n.rs p = emptyRs ∧
      entry n.rob q =
        { entry m.rob q with
          value := res.value, shouldBranch := res.shouldBranch, targetPc := res.targetPc, state := .ready } ∧
      ∀ r, (entry m.rs r).busy = true → (entry m.rs r).eligible = false →
        ((entry m.rs r).j = .tag q → (entry n.rs r).j = .val res.value) ∧
        ((entry m.rs r).k = .tag q → (entry n.rs r).k = .val res.value)) ∧
    (∀ b, (∀ p, (entry m.rs p).eligible = true → (entry m.rs p).dest ≠ b) → entry n.rob b = entry m.rob b) ∧
    ∀ r, (entry m.rs r).eligible = false →
      entry n.rs r = { entry m.rs r with j := (entry n.rs r).j, k := (entry n.rs r).k } ∧
      (((entry m.rs r).busy = false ∨
          ∀ p, (entry m.rs p).eligible = true → (entry m.rs r).j ≠ .tag (entry m.rs p).dest) →
        (entry n.rs r).j = (entry m.rs r).j) ∧
      (((entry m.rs r).busy = false ∨
          ∀ p, (entry m.rs p).eligible = true → (entry m.rs r).k ≠ .tag (entry m.rs p).dest) →
        (entry n.rs r).k = (entry m.rs r).k)

/-- The order in which the eligible stations are processed does not matter (40_engine_cycle R132). -/
def Obligations.WritebackOrderIsIrrelevant : Prop :=
  ∀ (c : Config) (m : Snapshot) (l : List RsIx), DistinctDests m → l.Perm (eligibleStations m) →
    l.foldl (broadcast c) m = writebackStage c m

/-- An operand forwarded by Writeback is resolved when Execute runs in the same step, so the countdown of the waiting station
begins in the cycle of the broadcast (40_engine_cycle R143 (d), C4): whichever operand waited while the other was a value, and
when both waited, for one producer or for two that write back together. -/
def Obligations.ForwardedOperandCountsDownInTheSameCycle : Prop :=
  ∀ (c : Config) (m : Snapshot) (p r : RsIx), DistinctDests m → (entry m.rs p).eligible = true →
    (entry m.rs r).busy = true →
    let v := (stationResult c m (entry m.rs p)).value
    let n := entry (executeStage (writebackStage c m)).rs r
    (∀ b, (entry m.rs r).j = .tag (entry m.rs p).dest → (entry m.rs r).k = .val b →
      n = { entry m.rs r with j := .val v, lat := (entry m.rs r).lat - 1 }) ∧
    (∀ a, (entry m.rs r).j = .val a → (entry m.rs r).k = .tag (entry m.rs p).dest →
      n = { entry m.rs r with k := .val v, lat := (entry m.rs r).lat - 1 }) ∧
    ((entry m.rs r).j = .tag (entry m.rs p).dest → (entry m.rs r).k = .tag (entry m.rs p).dest →
      n = { entry m.rs r with j := .val v, k := .val v, lat := (entry m.rs r).lat - 1 }) ∧
    ∀ p', (entry m.rs p').eligible = true → (entry m.rs r).j = .tag (entry m.rs p).dest →
      (entry m.rs r).k = .tag (entry m.rs p').dest →
      n =
        { entry m.rs r with
          j := .val v
          k := .val (stationResult c m (entry m.rs p')).value
          lat := (entry m.rs r).lat - 1 }

/-- What Writeback computes for each operation (40_engine_cycle R128). -/
def Obligations.StationResults : Prop :=
  ∀ (c : Config) (a b : Val) (pc : Nat) (off : Option Int),
    resultOf c .add a b pc off = ⟨wrap c.xlen (a + b), false, 0⟩ ∧
    resultOf c .sub a b pc off = ⟨wrap c.xlen (a - b), false, 0⟩ ∧
    resultOf c .mul a b pc off = ⟨wrap c.xlen (a * b), false, 0⟩ ∧
    resultOf c .div a b pc off = ⟨wrap c.xlen (divq c.divRound a b), false, 0⟩ ∧
    resultOf c .lw a b pc off = ⟨wrap c.xlen (a + b), false, 0⟩ ∧
    resultOf c .sw a b pc off = ⟨wrap c.xlen (a + b), false, 0⟩ ∧
    ∀ o : Int, 0 ≤ (pc : Int) + 1 + o →
      resultOf c .beq a b pc (some o) = ⟨0, decide (a = b), ((pc : Int) + 1 + o).toNat⟩ ∧
      resultOf c .bne a b pc (some o) = ⟨0, decide (a ≠ b), ((pc : Int) + 1 + o).toNat⟩

/-- 40_engine_cycle R133: a busy station with both operands resolved counts down by one, floored at zero; nothing else changes. -/
def Obligations.ExecuteCountsDown : Prop :=
  ∀ m : Snapshot,
    executeStage m = { m with rs := (executeStage m).rs } ∧
    ∀ r,
      (((entry m.rs r).busy = true ∧ (∃ a, (entry m.rs r).j = .val a) ∧ ∃ b, (entry m.rs r).k = .val b) →
        entry (executeStage m).rs r = { entry m.rs r with lat := max ((entry m.rs r).lat - 1) 0 }) ∧
      (¬((entry m.rs r).busy = true ∧ (∃ a, (entry m.rs r).j = .val a) ∧ ∃ b, (entry m.rs r).k = .val b) →
        entry (executeStage m).rs r = entry m.rs r)

/-! ### Arithmetic -/

/-- 00_scope R12: with finite `XLEN`, `wrap` gives the one `Val` congruent to its argument modulo `2^XLEN`, so a `Val` itself is
kept; with `XLEN = ∞` every integer is a `Val` and `wrap` gives its argument. -/
def Obligations.WrapReducesToTheValueRange : Prop :=
  (∀ (n : Nat) (v : Int), 0 < n → (inVal (.bits n) v = true ↔ -(2 ^ (n - 1) : Int) ≤ v ∧ v < 2 ^ (n - 1))) ∧
  (∀ (n : Nat) (v : Int), 0 < n →
    -(2 ^ (n - 1) : Int) ≤ wrap (.bits n) v ∧ wrap (.bits n) v < 2 ^ (n - 1) ∧
    (2 ^ n : Int) ∣ wrap (.bits n) v - v ∧
    (-(2 ^ (n - 1) : Int) ≤ v → v < 2 ^ (n - 1) → wrap (.bits n) v = v)) ∧
  ∀ v : Int, inVal .unbounded v = true ∧ wrap .unbounded v = v

/-- 41_arith R176: the quotient is 0 for a zero divisor, exact where the divisor divides, and otherwise the rational quotient
rounded down, or towards zero when the operands differ in sign and `DIV_ROUND` is trunc. The last clause is the spec's own
inference (R176 marks it derived from 00_scope R12): the only quotient of two `Val`s outside `Val` is that of the most negative
by -1, which wraps to the most negative. -/
def Obligations.QuotientRounding : Prop :=
  (∀ (round : DivRound) (a : Int), divq round a 0 = 0) ∧
  (∀ (round : DivRound) (a b : Int), b ≠ 0 → b ∣ a → divq round a b * b = a) ∧
  (∀ (round : DivRound) (a b : Int), b ≠ 0 → 0 ≤ a * b → divq round a b = ⌊(a / b : ℚ)⌋) ∧
  (∀ a b : Int, b ≠ 0 → divq .floor a b = ⌊(a / b : ℚ)⌋) ∧
  (∀ a b : Int, b ≠ 0 → ¬b ∣ a → a * b < 0 → divq .trunc a b = ⌊(a / b : ℚ)⌋ + 1) ∧
  ∀ (round : DivRound) (n : Nat) (a b : Int), 0 < n → inVal (.bits n) a = true → inVal (.bits n) b = true →
    (inVal (.bits n) (divq round a b) = false ↔ a = -(2 ^ (n - 1)) ∧ b = -1) ∧
    wrap (.bits n) (divq round (-(2 ^ (n - 1))) (-1)) = -(2 ^ (n - 1))

/-! ### Host commands -/

/-- 44_history_undo R222 and R223: `step_back` makes the newest Snapshot the live state and removes it from the history, so that
it undoes the step before it; on an empty history it changes nothing. -/
def Obligations.StepBackPopsTheHistory : Prop :=
  (∀ (s : State) (m : Snapshot) (rest : List Snapshot), s.hist = m :: rest →
    exec .stepBack s = .next { s with live := m, hist := rest }) ∧
  (∀ s : State, s.cfg.histDepth ≠ some 0 →
    Completes (exec .step s) fun t => Completes (exec .stepBack t) fun u => u.live = s.live ∧ u.prog = s.prog) ∧
  ∀ s : State, s.hist = [] → exec .stepBack s = .next s

/-- `k` steps followed by `k` undos give back the whole state when the history is unbounded, and everything but the history when
it is at least `k` deep (44_history_undo R224, R225). -/
def Obligations.UndoReturnsToTheStart : Prop :=
  ∀ (k : Nat) (s : State),
    (s.cfg.histDepth = none → runUndo k (runSteps k s) = s) ∧
    ∀ d, s.cfg.histDepth = some d → k ≤ d →
      runUndo k (runSteps k s) = { s with hist := (runUndo k (runSteps k s)).hist }

/-- `reset` gives every component the 'reset' column of 10_state R47 and keeps the program (45_host_commands R244). The register
values it restores, `REG_RESET`, are a parameter. -/
def Obligations.ResetKeepsOnlyTheProgram : Prop :=
  ∀ s : State,
    Completes (exec .reset s) fun t =>
      t = { s with live := t.live, hist := [] } ∧
      t.live.cycle = 0 ∧ t.live.pc = 0 ∧ t.live.head = 0 ∧ t.live.tail = 0 ∧ t.live.committed = 0 ∧
      t.live.bubbles = 0 ∧ t.live.flushes = 0 ∧ t.live.log = [] ∧ (∀ r, entry t.live.rs r = emptyRs) ∧
      (∀ b, entry t.live.rob b = emptyRob) ∧ (∀ d, entry t.live.rst d = none) ∧ t.live.rf = s.cfg.regReset

/-- A well-formed stream is installed record by record, and every other component takes the 'load_program' column of 10_state R47
(45_host_commands R241). That a refusal is a next state is the model's choice (log 5). -/
def Obligations.LoadInstallsWellFormedStreams : Prop :=
  ∀ (s : State) (p : List RawRecord), WfProgram p →
    Completes (exec (.loadProgram p) s) fun t =>
      t = { s with live := freshSnapshot s.cfg.regSeed, prog := t.prog, hist := [], loadError := none } ∧
      t.prog.map (fun r => (⟨r.op, r.rd.val, r.rs1.val, r.rs2.val, r.off⟩ : RawRecord)) = p ∧ WfStream t.prog

/-- A stream that fails `WF` is refused: the engine is as it was, and the reason names the lowest failing index and the first
clause it fails there (60_exceptions R262). That the refusal is a next state with `load_error` raised is the model's choice
(log 5). -/
def Obligations.LoadRefusesMalformedStreams : Prop :=
  ∀ (s : State) (p : List RawRecord), ¬WfProgram p →
    ∃ (i : Nat) (h : i < p.length) (e : LoadError),
      p[i].wf i = false ∧ (∀ (j : Nat) (hj : j < p.length), j < i → p[j].wf j = true) ∧
      exec (.loadProgram p) s = .next { s with loadError := some e } ∧
      ((e = .regIndexOutOfRange i .rd ∧ regInRange p[i].rd = false) ∨
        (e = .regIndexOutOfRange i .rs1 ∧ regInRange p[i].rs1 = false) ∨
        (e = .regIndexOutOfRange i .rs2 ∧ regInRange p[i].rs2 = false) ∨
        (regInRange p[i].rd = true ∧ regInRange p[i].rs1 = true ∧ regInRange p[i].rs2 = true ∧
          ((e = .branchOffsetMissing i ∧ p[i].offsetPresent = false) ∨
            (e = .branchTargetNegative i ∧ p[i].offsetPresent = true ∧ p[i].targetNatural i = false))))

/-- 45_host_commands R246: the five numbers of `get_metrics`. -/
def Obligations.MetricsReportTheCounters : Prop :=
  ∀ s : State,
    (getMetrics s).cycles = s.live.cycle ∧ (getMetrics s).instructions = s.live.committed ∧
    (getMetrics s).bubbles = s.live.bubbles ∧ (getMetrics s).flushes = s.live.flushes ∧
    (s.live.cycle = 0 → (getMetrics s).ipc = 0) ∧
    (0 < s.live.cycle → (getMetrics s).ipc * s.live.cycle = s.live.committed)

/-- Where the ROB is a FIFO, `is_complete` says that the stream is exhausted and no slot is busy (45_host_commands R245). -/
def Obligations.CompleteMeansDrained : Prop :=
  ∀ s : State, FifoInv s.live →
    (isComplete s = true ↔ s.prog.length ≤ s.live.pc ∧ ∀ b, (entry s.live.rob b).busy = false)

/-- A step with nothing in flight and nothing to fetch pushes a Snapshot and counts a cycle, and does nothing else
(45_host_commands R242, 70_reset_and_hazards R293). -/
def Obligations.IdleStepOnlyCountsACycle : Prop :=
  ∀ s : State, Quiescent s.live → s.prog.length ≤ s.live.pc →
    exec .step s =
      .next { s with
        hist := pushHistory s.cfg s.live s.hist
        live := { s.live with cycle := s.live.cycle + 1 } }

/-! ### Invariants -/

/-- The state after reset meets every invariant stated below. -/
def Obligations.ResetMeetsTheInvariants : Prop :=
  EngineInv State.reset ∧ BookkeepingInv State.reset ∧ CommitOrderInv State.reset ∧ HistoryInv State.reset = true ∧
    ValuesInv State.reset ∧ TagInv State.reset.live

/-- (I1) to (I7) of 70_reset_and_hazards R294, in the live state and in every stored Snapshot, with a well-formed stream, are kept
by every clock edge, whatever the host presents. -/
def Obligations.EveryEdgeKeepsThePipelineInvariant : Prop :=
  ∀ s t : State, EngineInv s → step s = .next t → EngineInv t

/-- (I8): the counters agree with the trace log, and commits and in-flight instructions never outnumber issues. -/
def Obligations.EveryEdgeKeepsTheBookkeeping : Prop :=
  ∀ s t : State, BookkeepingInv s → step s = .next t → BookkeepingInv t

/-- Instructions commit in the order they were issued, flushed ones never (70_reset_and_hazards R295): replaying the log never
commits anything but the oldest in-flight instruction, and leaves exactly what the ROB holds. -/
def Obligations.EveryEdgeKeepsCommitOrder : Prop :=
  ∀ s t : State, EngineInv s → CommitOrderInv s → step s = .next t → CommitOrderInv t

/-- An unbounded history holds one Snapshot per cycle back to cycle 0, so its length is `cycle`; a bounded one keeps its bound
(44_history_undo R225, R227). -/
def Obligations.EveryEdgeKeepsTheHistoryInvariant : Prop :=
  (∀ s t : State, HistoryInv s = true → step s = .next t → HistoryInv t = true) ∧
  ∀ s : State, s.cfg.histDepth = none → HistoryInv s = true → s.hist.length = s.live.cycle

/-- Under legal parameters every register, result and operand stays a `Val` (00_scope R12, 41_arith R175). -/
def Obligations.EveryEdgeKeepsValuesInRange : Prop :=
  ∀ s t : State, ValuesInv s → step s = .next t → ValuesInv t

/-- A step without the stale-tag event, in particular any step with `ISSUE_READS_READY_ROB`, keeps every pending tag on a busy slot
without a result (70_reset_and_hazards R301, C6). -/
def Obligations.StepKeepsTagsLiveWithoutStaleEvent : Prop :=
  ∀ s t : State, EngineInv s → TagInv s.live → staleTagEvent s = false → exec .step s = .next t → TagInv t.live

/-- The stale-tag event leaves a tag on a slot that has broadcast already: the sentence of 10_state R32 fails at the end of that
step (70_reset_and_hazards R301, C6). -/
def Obligations.StaleEventLeavesADeadTag : Prop :=
  ∀ s t : State, EngineInv s → staleTagEvent s = true → exec .step s = .next t →
    ∃ r b, (entry t.live.rs r).busy = true ∧ ((entry t.live.rs r).j = .tag b ∨ (entry t.live.rs r).k = .tag b) ∧
      (entry t.live.rob b).state = .ready

/-- Every busy branch station has an offset and a natural target, so no free value of the model is ever used ((I9)). -/
def Obligations.BranchTargetsAreNatural : Prop :=
  ∀ (c : Config) (s : State) (m : Snapshot) (r : RsIx), EngineInv s → m ∈ s.live :: s.hist →
    (entry m.rs r).busy = true → (entry m.rs r).op.isBranch = true →
    ∃ (i : Record) (o : Int), (entry m.rob (entry m.rs r).dest).instr = some i ∧ i.off = some o ∧
      0 ≤ ((entry m.rs r).pcIssue : Int) + 1 + o ∧
      ((stationResult c m (entry m.rs r)).targetPc : Int) = ((entry m.rs r).pcIssue : Int) + 1 + o

/-- Where the ROB is a FIFO, `head = tail` says that it is empty or full, and `tail` names a busy slot only when it is full
(10_state R37). -/
def Obligations.HeadMeetsTailWhenEmptyOrFull : Prop :=
  ∀ m : Snapshot, FifoInv m →
    (m.head = m.tail ↔ (occupancy m = 0 ∨ occupancy m = 8)) ∧
    ((entry m.rob m.tail).busy = true ↔ occupancy m = 8) ∧ occupancy m ≤ 8

/-! ### Whole-machine frames and separation -/

/-- A step changes at most one register: the destination of the ready non-branch at `head`, to its result; so no instruction
changes a register before it commits (10_state R23, 60_exceptions R265). -/
def Obligations.RegistersChangeAtCommitOnly : Prop :=
  ∀ (s t : State) (d : RegIx), exec .step s = .next t → entry t.live.rf d ≠ entry s.live.rf d →
    (entry s.live.rob s.live.head).busy = true ∧ (entry s.live.rob s.live.head).state = .ready ∧
    (∃ i, (entry s.live.rob s.live.head).instr = some i ∧ i.op.isBranch = false) ∧
    (entry s.live.rob s.live.head).dest = some d ∧
    entry t.live.rf d = wrap s.cfg.xlen (entry s.live.rob s.live.head).value

/-- A step leaves `pc` where the Commit stage put it, its old value or the target of a committing taken branch, when nothing was
issued, and one further when the record there was issued (10_state R25). -/
def Obligations.PcMovesByIssueOrFlushOnly : Prop :=
  ∀ s t : State, exec .step s = .next t →
    let e := entry s.live.rob s.live.head
    let p := if e.busy = true ∧ e.state = .ready ∧ e.shouldBranch = true ∧ e.instr.any (fun i => i.op.isBranch) = true
      then e.targetPc else s.live.pc
    (t.live.pc = p ∧ t.live.log.countP TraceEvent.isIssue = s.live.log.countP TraceEvent.isIssue) ∨
      (t.live.pc = p + 1 ∧ ∃ i r b, s.prog[p]? = some i ∧ t.live.log.getLast? = some (.issue p i r b))

/-- The trace log and the history are invisible to the engine: a step appends the same events and computes the same live state
whatever they hold (10_state R42, 44_history_undo R227). -/
def Obligations.LogAndHistoryAreInvisible : Prop :=
  ∀ s : State, ∃ events : List TraceEvent, ∀ (l : List TraceEvent) (h : List Snapshot),
    Completes (exec .step { s with live := { s.live with log := l }, hist := h }) fun t =>
      t.live = { (runCycle s).live with log := l ++ events }

/-- No clock edge changes the parameters; the stream changes only at `rst` and at an accepted `LOAD_PROGRAM`, which leaves nothing
in flight (20_memory R81). -/
def Obligations.StreamChangesOnlyWhenReplacedWhole : Prop :=
  ∀ s t : State, step s = .next t →
    t.cfg = s.cfg ∧ t.inbox = s.inbox.tail ∧
    (t.prog ≠ s.prog →
      ((sampledInput s).rst = true ∨ (sampledInput s).cmd.toNat = 4) ∧ Quiescent t.live ∧ t.hist = [] ∧ t.live.pc = 0)

/-- A ready instruction at `head` commits in the next step: with a record in the slot, as every reachable busy slot has
(70_reset_and_hazards R303). -/
def Obligations.ReadyHeadCommitsNextStep : Prop :=
  ∀ s : State, SlotInv s.live → (entry s.live.rob s.live.head).busy = true →
    (entry s.live.rob s.live.head).state = .ready →
    Completes (exec .step s) fun t => t.live.committed = s.live.committed + 1

/-- The proposition of 70_reset_and_hazards R300: a run from an accepted `load_program` that completes without a stale-tag or
unrenamed-store event ends with the registers of the sequential machine, and has committed and flushed as many instructions
as that machine executed and took branches. -/
def Obligations.HazardFreeRunsAreSequential : Prop :=
  ∀ (s s0 : State) (p : List RawRecord) (n : Nat), WfProgram p → exec (.loadProgram p) s = .next s0 →
    hazardFree n s0 = true → isComplete (runSteps n s0) = true →
    ∃ k, let q := seqRun s.cfg s0.prog k (SeqState.start s.cfg.regSeed)
      s0.prog.length ≤ q.ip ∧ q.x = (runSteps n s0).live.rf ∧ q.executed = (runSteps n s0).live.committed ∧
        q.taken = (runSteps n s0).live.flushes

/-! ### What the host sees, and the hardware binding -/

/-- The accessors and metrics show every component of the state but the history: equal views are equal live states and streams,
and no view depends on the history (10_state R46, 45_host_commands R247). -/
def Obligations.AccessorsShowAllButTheHistory : Prop :=
  (∀ s t : State, (∀ r, readRs s r = readRs t r) → (∀ b, readRob s b = readRob t b) → (∀ d, readRf s d = readRf t d) →
    (∀ d, readRst s d = readRst t d) → readLog s = readLog t → readPc s = readPc t → readHead s = readHead t →
    readTail s = readTail t → readProg s = readProg t → getMetrics s = getMetrics t →
    s.live = t.live ∧ s.prog = t.prog) ∧
  ∀ (s : State) (h : List Snapshot),
    let u := { s with hist := h }
    readRs u = readRs s ∧ readRob u = readRob s ∧ readRf u = readRf s ∧ readRst u = readRst s ∧ readLog u = readLog s ∧
      readPc u = readPc s ∧ readHead u = readHead s ∧ readTail u = readTail s ∧ readProg u = readProg s ∧
      getMetrics u = getMetrics s ∧ isComplete u = isComplete s ∧ readPorts u = readPorts s

/-- The least widths of 10_state R49 suffice: the ROB state has its 2-bit codes with 3 unused, and in every Snapshot with the
pipeline invariant every countdown fits its field and every register and result survives being held in `XLEN` bits. -/
def Obligations.FieldsFitTheirWidths : Prop :=
  (∀ k : BitVec 2,
    robStateOfCode k =
      if k.toNat = 0 then some .waiting else if k.toNat = 1 then some .executing else if k.toNat = 2 then some .ready
      else none) ∧
  (∀ x : RobState, robStateOfCode (robStateCode x) = some x) ∧
  ∀ (c : Config) (prog : List Record) (m : Snapshot), LegalConfig c → pipelineOk prog m = true →
    ValuesInRange c.xlen m →
    (∀ r, (entry m.rs r).lat < 2 ^ (fieldWidths c).lat) ∧
    ∀ n, (fieldWidths c).val = some n →
      (∀ d, (BitVec.ofInt n (entry m.rf d)).toInt = entry m.rf d) ∧
      ∀ b, (BitVec.ofInt n (entry m.rob b).value).toInt = (entry m.rob b).value
end

