-- ==== Sys2Proof/Laws/Code.lean ====
section
/-! SUPPORT. The packed word as a number: its fields are its digits. -/

namespace Sys2Proof

/-- Appending bit strings is a sum of their numbers. -/
theorem append_toNat {m n : Nat} (x : BitVec m) (y : BitVec n) : (x ++ y).toNat = x.toNat * 2 ^ n + y.toNat := by
  rw [BitVec.toNat_append, ← Nat.shiftLeft_add_eq_or_of_lt y.isLt, Nat.shiftLeft_eq]

/-- A packed word as a number (30_encoding R96). -/
theorem packWord_toNat (op : Op) (rd rs1 rs2 : BitVec 5) (off14 : BitVec 14) :
    (packWord op rd rs1 rs2 off14).toNat =
      (codeOfOp op).toNat * 2 ^ 29 + rd.toNat * 2 ^ 24 + rs1.toNat * 2 ^ 19 + rs2.toNat * 2 ^ 14 + off14.toNat := by
  unfold packWord
  simp only [append_toNat]
  ring

/-- A field of a word as a digit of its number. -/
theorem extract_toNat {n : Nat} (w : BitVec n) (lo k : Nat) : (w.extractLsb' lo k).toNat = w.toNat / 2 ^ lo % 2 ^ k := by
  simp [BitVec.extractLsb', Nat.shiftRight_eq_div_pow]

end Sys2Proof
end

