-- ==== Sys2Proof/Laws/History.lean ====
section
/-! SUPPORT. The history a run of steps leaves, one push at a time. -/

namespace Sys2Proof.Machine

@[simp] theorem historyThrough_zero (s t : State) : historyThrough s t 0 = pushHistory s.cfg s.live s.hist := rfl

/-- One more step pushes the state before it. -/
theorem historyThrough_succ (s t : State) (n : Nat) :
    historyThrough s t (n + 1) = pushHistory s.cfg (runSteps n t).live (historyThrough s t n) := by
  simp [historyThrough, List.range_succ]

/-- The last of `n + 1` steps. -/
theorem runSteps_succ (n : Nat) (s : State) : runSteps (n + 1) s = runCycle (runSteps n s) := by
  induction n generalizing s with
  | zero => rfl
  | succ n ih => exact ih (runCycle s)

end Sys2Proof.Machine
end

