-- ==== Sys2Proof/Laws/State.lean ====
section
/-! SUPPORT. One lemma per field per update of the live state and of the state, true by rfl, so that no proof unfolds a record
update. -/

namespace Sys2Proof.Machine

/-! ### writeReg -/

@[simp] theorem writeReg_cycle (c : Config) (m : Snapshot) (d : RegIx) (v : Int) :
    (writeReg c m d v).cycle = m.cycle := rfl
@[simp] theorem writeReg_pc (c : Config) (m : Snapshot) (d : RegIx) (v : Int) : (writeReg c m d v).pc = m.pc := rfl
@[simp] theorem writeReg_rs (c : Config) (m : Snapshot) (d : RegIx) (v : Int) : (writeReg c m d v).rs = m.rs := rfl
@[simp] theorem writeReg_rob (c : Config) (m : Snapshot) (d : RegIx) (v : Int) : (writeReg c m d v).rob = m.rob := rfl
@[simp] theorem writeReg_head (c : Config) (m : Snapshot) (d : RegIx) (v : Int) :
    (writeReg c m d v).head = m.head := rfl
@[simp] theorem writeReg_tail (c : Config) (m : Snapshot) (d : RegIx) (v : Int) :
    (writeReg c m d v).tail = m.tail := rfl
@[simp] theorem writeReg_rf (c : Config) (m : Snapshot) (d : RegIx) (v : Int) :
    (writeReg c m d v).rf = setEntry m.rf d (wrap c.xlen v) := rfl
@[simp] theorem writeReg_rst (c : Config) (m : Snapshot) (d : RegIx) (v : Int) : (writeReg c m d v).rst = m.rst := rfl
@[simp] theorem writeReg_committed (c : Config) (m : Snapshot) (d : RegIx) (v : Int) :
    (writeReg c m d v).committed = m.committed := rfl
@[simp] theorem writeReg_bubbles (c : Config) (m : Snapshot) (d : RegIx) (v : Int) :
    (writeReg c m d v).bubbles = m.bubbles := rfl
@[simp] theorem writeReg_flushes (c : Config) (m : Snapshot) (d : RegIx) (v : Int) :
    (writeReg c m d v).flushes = m.flushes := rfl
@[simp] theorem writeReg_log (c : Config) (m : Snapshot) (d : RegIx) (v : Int) : (writeReg c m d v).log = m.log := rfl

/-! ### flush -/

@[simp] theorem flush_cycle (m : Snapshot) (t : Nat) : (flush m t).cycle = m.cycle := rfl
@[simp] theorem flush_pc (m : Snapshot) (t : Nat) : (flush m t).pc = t := rfl
@[simp] theorem flush_rs (m : Snapshot) (t : Nat) : (flush m t).rs = filled 5 emptyRs := rfl
@[simp] theorem flush_rob (m : Snapshot) (t : Nat) : (flush m t).rob = filled 8 emptyRob := rfl
@[simp] theorem flush_head (m : Snapshot) (t : Nat) : (flush m t).head = 0 := rfl
@[simp] theorem flush_tail (m : Snapshot) (t : Nat) : (flush m t).tail = 0 := rfl
@[simp] theorem flush_rf (m : Snapshot) (t : Nat) : (flush m t).rf = m.rf := rfl
@[simp] theorem flush_rst (m : Snapshot) (t : Nat) : (flush m t).rst = filled 32 none := rfl
@[simp] theorem flush_committed (m : Snapshot) (t : Nat) : (flush m t).committed = m.committed := rfl
@[simp] theorem flush_bubbles (m : Snapshot) (t : Nat) : (flush m t).bubbles = m.bubbles := rfl
@[simp] theorem flush_flushes (m : Snapshot) (t : Nat) : (flush m t).flushes = m.flushes + 1 := rfl
@[simp] theorem flush_log (m : Snapshot) (t : Nat) : (flush m t).log = m.log := rfl

/-! ### bubble -/

@[simp] theorem bubble_cycle (m : Snapshot) : (bubble m).cycle = m.cycle := rfl
@[simp] theorem bubble_pc (m : Snapshot) : (bubble m).pc = m.pc := rfl
@[simp] theorem bubble_rs (m : Snapshot) : (bubble m).rs = m.rs := rfl
@[simp] theorem bubble_rob (m : Snapshot) : (bubble m).rob = m.rob := rfl
@[simp] theorem bubble_head (m : Snapshot) : (bubble m).head = m.head := rfl
@[simp] theorem bubble_tail (m : Snapshot) : (bubble m).tail = m.tail := rfl
@[simp] theorem bubble_rf (m : Snapshot) : (bubble m).rf = m.rf := rfl
@[simp] theorem bubble_rst (m : Snapshot) : (bubble m).rst = m.rst := rfl
@[simp] theorem bubble_committed (m : Snapshot) : (bubble m).committed = m.committed := rfl
@[simp] theorem bubble_bubbles (m : Snapshot) : (bubble m).bubbles = m.bubbles + 1 := rfl
@[simp] theorem bubble_flushes (m : Snapshot) : (bubble m).flushes = m.flushes := rfl
@[simp] theorem bubble_log (m : Snapshot) : (bubble m).log = m.log := rfl

/-! ### endCycle -/

@[simp] theorem endCycle_cycle (m : Snapshot) : (endCycle m).cycle = m.cycle + 1 := rfl
@[simp] theorem endCycle_pc (m : Snapshot) : (endCycle m).pc = m.pc := rfl
@[simp] theorem endCycle_rs (m : Snapshot) : (endCycle m).rs = m.rs := rfl
@[simp] theorem endCycle_rob (m : Snapshot) : (endCycle m).rob = m.rob := rfl
@[simp] theorem endCycle_head (m : Snapshot) : (endCycle m).head = m.head := rfl
@[simp] theorem endCycle_tail (m : Snapshot) : (endCycle m).tail = m.tail := rfl
@[simp] theorem endCycle_rf (m : Snapshot) : (endCycle m).rf = m.rf := rfl
@[simp] theorem endCycle_rst (m : Snapshot) : (endCycle m).rst = m.rst := rfl
@[simp] theorem endCycle_committed (m : Snapshot) : (endCycle m).committed = m.committed := rfl
@[simp] theorem endCycle_bubbles (m : Snapshot) : (endCycle m).bubbles = m.bubbles := rfl
@[simp] theorem endCycle_flushes (m : Snapshot) : (endCycle m).flushes = m.flushes := rfl
@[simp] theorem endCycle_log (m : Snapshot) : (endCycle m).log = m.log := rfl

/-! ### retireHead -/

@[simp] theorem retireHead_cycle (m : Snapshot) (e : RobEntry) (i : Record) : (retireHead m e i).cycle = m.cycle := rfl
@[simp] theorem retireHead_pc (m : Snapshot) (e : RobEntry) (i : Record) : (retireHead m e i).pc = m.pc := rfl
@[simp] theorem retireHead_rs (m : Snapshot) (e : RobEntry) (i : Record) : (retireHead m e i).rs = m.rs := rfl
@[simp] theorem retireHead_rob (m : Snapshot) (e : RobEntry) (i : Record) :
    (retireHead m e i).rob = setEntry m.rob m.head emptyRob := rfl
@[simp] theorem retireHead_head (m : Snapshot) (e : RobEntry) (i : Record) : (retireHead m e i).head = m.head + 1 := rfl
@[simp] theorem retireHead_tail (m : Snapshot) (e : RobEntry) (i : Record) : (retireHead m e i).tail = m.tail := rfl
@[simp] theorem retireHead_rf (m : Snapshot) (e : RobEntry) (i : Record) : (retireHead m e i).rf = m.rf := rfl
@[simp] theorem retireHead_rst (m : Snapshot) (e : RobEntry) (i : Record) : (retireHead m e i).rst = m.rst := rfl
@[simp] theorem retireHead_committed (m : Snapshot) (e : RobEntry) (i : Record) :
    (retireHead m e i).committed = m.committed + 1 := rfl
@[simp] theorem retireHead_bubbles (m : Snapshot) (e : RobEntry) (i : Record) :
    (retireHead m e i).bubbles = m.bubbles := rfl
@[simp] theorem retireHead_flushes (m : Snapshot) (e : RobEntry) (i : Record) :
    (retireHead m e i).flushes = m.flushes := rfl
@[simp] theorem retireHead_log (m : Snapshot) (e : RobEntry) (i : Record) :
    (retireHead m e i).log = m.log ++ [.commit m.head i e.value false] := rfl

/-! ### commitMispredicted -/

@[simp] theorem commitMispredicted_cycle (m : Snapshot) (e : RobEntry) (i : Record) :
    (commitMispredicted m e i).cycle = m.cycle := rfl
@[simp] theorem commitMispredicted_pc (m : Snapshot) (e : RobEntry) (i : Record) :
    (commitMispredicted m e i).pc = e.targetPc := rfl
@[simp] theorem commitMispredicted_rs (m : Snapshot) (e : RobEntry) (i : Record) :
    (commitMispredicted m e i).rs = filled 5 emptyRs := rfl
@[simp] theorem commitMispredicted_rob (m : Snapshot) (e : RobEntry) (i : Record) :
    (commitMispredicted m e i).rob = filled 8 emptyRob := rfl
@[simp] theorem commitMispredicted_head (m : Snapshot) (e : RobEntry) (i : Record) :
    (commitMispredicted m e i).head = 0 := rfl
@[simp] theorem commitMispredicted_tail (m : Snapshot) (e : RobEntry) (i : Record) :
    (commitMispredicted m e i).tail = 0 := rfl
@[simp] theorem commitMispredicted_rf (m : Snapshot) (e : RobEntry) (i : Record) :
    (commitMispredicted m e i).rf = m.rf := rfl
@[simp] theorem commitMispredicted_rst (m : Snapshot) (e : RobEntry) (i : Record) :
    (commitMispredicted m e i).rst = filled 32 none := rfl
@[simp] theorem commitMispredicted_committed (m : Snapshot) (e : RobEntry) (i : Record) :
    (commitMispredicted m e i).committed = m.committed + 1 := rfl
@[simp] theorem commitMispredicted_bubbles (m : Snapshot) (e : RobEntry) (i : Record) :
    (commitMispredicted m e i).bubbles = m.bubbles := rfl
@[simp] theorem commitMispredicted_flushes (m : Snapshot) (e : RobEntry) (i : Record) :
    (commitMispredicted m e i).flushes = m.flushes + 1 := rfl
@[simp] theorem commitMispredicted_log (m : Snapshot) (e : RobEntry) (i : Record) :
    (commitMispredicted m e i).log = m.log ++ [.commit m.head i 0 true] := rfl

/-! ### broadcast -/

@[simp] theorem broadcast_cycle (c : Config) (m : Snapshot) (r : RsIx) : (broadcast c m r).cycle = m.cycle := rfl
@[simp] theorem broadcast_pc (c : Config) (m : Snapshot) (r : RsIx) : (broadcast c m r).pc = m.pc := rfl
@[simp] theorem broadcast_rs (c : Config) (m : Snapshot) (r : RsIx) :
    (broadcast c m r).rs = setEntry
      (tabulate fun s => (entry m.rs s).forward (entry m.rs r).dest (stationResult c m (entry m.rs r)).value) r emptyRs := rfl
@[simp] theorem broadcast_rob (c : Config) (m : Snapshot) (r : RsIx) :
    (broadcast c m r).rob = setEntry m.rob (entry m.rs r).dest
      ((entry m.rob (entry m.rs r).dest).receive (stationResult c m (entry m.rs r))) := rfl
@[simp] theorem broadcast_head (c : Config) (m : Snapshot) (r : RsIx) : (broadcast c m r).head = m.head := rfl
@[simp] theorem broadcast_tail (c : Config) (m : Snapshot) (r : RsIx) : (broadcast c m r).tail = m.tail := rfl
@[simp] theorem broadcast_rf (c : Config) (m : Snapshot) (r : RsIx) : (broadcast c m r).rf = m.rf := rfl
@[simp] theorem broadcast_rst (c : Config) (m : Snapshot) (r : RsIx) : (broadcast c m r).rst = m.rst := rfl
@[simp] theorem broadcast_committed (c : Config) (m : Snapshot) (r : RsIx) :
    (broadcast c m r).committed = m.committed := rfl
@[simp] theorem broadcast_bubbles (c : Config) (m : Snapshot) (r : RsIx) : (broadcast c m r).bubbles = m.bubbles := rfl
@[simp] theorem broadcast_flushes (c : Config) (m : Snapshot) (r : RsIx) : (broadcast c m r).flushes = m.flushes := rfl
@[simp] theorem broadcast_log (c : Config) (m : Snapshot) (r : RsIx) : (broadcast c m r).log = m.log := rfl

/-! ### executeStage -/

@[simp] theorem executeStage_cycle (m : Snapshot) : (executeStage m).cycle = m.cycle := rfl
@[simp] theorem executeStage_pc (m : Snapshot) : (executeStage m).pc = m.pc := rfl
@[simp] theorem executeStage_rs (m : Snapshot) : (executeStage m).rs = tabulate fun r => (entry m.rs r).tick := rfl
@[simp] theorem executeStage_rob (m : Snapshot) : (executeStage m).rob = m.rob := rfl
@[simp] theorem executeStage_head (m : Snapshot) : (executeStage m).head = m.head := rfl
@[simp] theorem executeStage_tail (m : Snapshot) : (executeStage m).tail = m.tail := rfl
@[simp] theorem executeStage_rf (m : Snapshot) : (executeStage m).rf = m.rf := rfl
@[simp] theorem executeStage_rst (m : Snapshot) : (executeStage m).rst = m.rst := rfl
@[simp] theorem executeStage_committed (m : Snapshot) : (executeStage m).committed = m.committed := rfl
@[simp] theorem executeStage_bubbles (m : Snapshot) : (executeStage m).bubbles = m.bubbles := rfl
@[simp] theorem executeStage_flushes (m : Snapshot) : (executeStage m).flushes = m.flushes := rfl
@[simp] theorem executeStage_log (m : Snapshot) : (executeStage m).log = m.log := rfl

/-! ### dispatch -/

@[simp] theorem dispatch_cycle (c : Config) (m : Snapshot) (i : Record) (r : RsIx) :
    (dispatch c m i r).cycle = m.cycle := rfl
@[simp] theorem dispatch_pc (c : Config) (m : Snapshot) (i : Record) (r : RsIx) :
    (dispatch c m i r).pc = m.pc + 1 := rfl
@[simp] theorem dispatch_rs (c : Config) (m : Snapshot) (i : Record) (r : RsIx) :
    (dispatch c m i r).rs = setEntry m.rs r (issuedRs c m i) := rfl
@[simp] theorem dispatch_rob (c : Config) (m : Snapshot) (i : Record) (r : RsIx) :
    (dispatch c m i r).rob = setEntry m.rob m.tail (issuedRob i) := rfl
@[simp] theorem dispatch_head (c : Config) (m : Snapshot) (i : Record) (r : RsIx) :
    (dispatch c m i r).head = m.head := rfl
@[simp] theorem dispatch_tail (c : Config) (m : Snapshot) (i : Record) (r : RsIx) :
    (dispatch c m i r).tail = m.tail + 1 := rfl
@[simp] theorem dispatch_rf (c : Config) (m : Snapshot) (i : Record) (r : RsIx) : (dispatch c m i r).rf = m.rf := rfl
@[simp] theorem dispatch_rst (c : Config) (m : Snapshot) (i : Record) (r : RsIx) :
    (dispatch c m i r).rst = if i.op.writesRename then setEntry m.rst i.rd (some m.tail) else m.rst := rfl
@[simp] theorem dispatch_committed (c : Config) (m : Snapshot) (i : Record) (r : RsIx) :
    (dispatch c m i r).committed = m.committed := rfl
@[simp] theorem dispatch_bubbles (c : Config) (m : Snapshot) (i : Record) (r : RsIx) :
    (dispatch c m i r).bubbles = m.bubbles := rfl
@[simp] theorem dispatch_flushes (c : Config) (m : Snapshot) (i : Record) (r : RsIx) :
    (dispatch c m i r).flushes = m.flushes := rfl
@[simp] theorem dispatch_log (c : Config) (m : Snapshot) (i : Record) (r : RsIx) :
    (dispatch c m i r).log = m.log ++ [.issue m.pc i r m.tail] := rfl

/-! ### resetEngine -/

@[simp] theorem resetEngine_cfg (s : State) : (resetEngine s).cfg = s.cfg := rfl
@[simp] theorem resetEngine_live (s : State) : (resetEngine s).live = freshSnapshot s.cfg.regReset := rfl
@[simp] theorem resetEngine_prog (s : State) : (resetEngine s).prog = s.prog := rfl
@[simp] theorem resetEngine_hist (s : State) : (resetEngine s).hist = [] := rfl
@[simp] theorem resetEngine_inbox (s : State) : (resetEngine s).inbox = s.inbox := rfl
@[simp] theorem resetEngine_loadError (s : State) : (resetEngine s).loadError = s.loadError := rfl

/-! ### constructEngine -/

@[simp] theorem constructEngine_cfg (s : State) : (constructEngine s).cfg = s.cfg := rfl
@[simp] theorem constructEngine_live (s : State) : (constructEngine s).live = freshSnapshot s.cfg.regReset := rfl
@[simp] theorem constructEngine_prog (s : State) : (constructEngine s).prog = [] := rfl
@[simp] theorem constructEngine_hist (s : State) : (constructEngine s).hist = [] := rfl
@[simp] theorem constructEngine_inbox (s : State) : (constructEngine s).inbox = s.inbox := rfl
@[simp] theorem constructEngine_loadError (s : State) : (constructEngine s).loadError = s.loadError := rfl

/-! ### installProgram -/

@[simp] theorem installProgram_cfg (s : State) (p : List Record) : (installProgram s p).cfg = s.cfg := rfl
@[simp] theorem installProgram_live (s : State) (p : List Record) :
    (installProgram s p).live = freshSnapshot s.cfg.regSeed := rfl
@[simp] theorem installProgram_prog (s : State) (p : List Record) : (installProgram s p).prog = p := rfl
@[simp] theorem installProgram_hist (s : State) (p : List Record) : (installProgram s p).hist = [] := rfl
@[simp] theorem installProgram_inbox (s : State) (p : List Record) : (installProgram s p).inbox = s.inbox := rfl
@[simp] theorem installProgram_loadError (s : State) (p : List Record) : (installProgram s p).loadError = none := rfl

/-! ### takeInput -/

@[simp] theorem takeInput_cfg (s : State) : (takeInput s).cfg = s.cfg := rfl
@[simp] theorem takeInput_live (s : State) : (takeInput s).live = s.live := rfl
@[simp] theorem takeInput_prog (s : State) : (takeInput s).prog = s.prog := rfl
@[simp] theorem takeInput_hist (s : State) : (takeInput s).hist = s.hist := rfl
@[simp] theorem takeInput_inbox (s : State) : (takeInput s).inbox = s.inbox.tail := rfl
@[simp] theorem takeInput_loadError (s : State) : (takeInput s).loadError = none := rfl

/-! ### presentInput -/

@[simp] theorem presentInput_cfg (s : State) (e : HostInput) : (presentInput s e).cfg = s.cfg := rfl
@[simp] theorem presentInput_live (s : State) (e : HostInput) : (presentInput s e).live = s.live := rfl
@[simp] theorem presentInput_prog (s : State) (e : HostInput) : (presentInput s e).prog = s.prog := rfl
@[simp] theorem presentInput_hist (s : State) (e : HostInput) : (presentInput s e).hist = s.hist := rfl
@[simp] theorem presentInput_inbox (s : State) (e : HostInput) : (presentInput s e).inbox = e :: s.inbox := rfl
@[simp] theorem presentInput_loadError (s : State) (e : HostInput) : (presentInput s e).loadError = s.loadError := rfl

/-! ### beginCycle -/

@[simp] theorem beginCycle_cfg (s : State) : (beginCycle s).cfg = s.cfg := rfl
@[simp] theorem beginCycle_live (s : State) : (beginCycle s).live = stagesBeforeIssue s.cfg s.live := rfl
@[simp] theorem beginCycle_prog (s : State) : (beginCycle s).prog = s.prog := rfl
@[simp] theorem beginCycle_hist (s : State) : (beginCycle s).hist = pushHistory s.cfg s.live s.hist := rfl
@[simp] theorem beginCycle_inbox (s : State) : (beginCycle s).inbox = s.inbox := rfl
@[simp] theorem beginCycle_loadError (s : State) : (beginCycle s).loadError = s.loadError := rfl

/-! ### runCycle -/

@[simp] theorem runCycle_cfg (s : State) : (runCycle s).cfg = s.cfg := rfl
@[simp] theorem runCycle_live (s : State) :
    (runCycle s).live = endCycle (issueStage s.cfg s.prog (stagesBeforeIssue s.cfg s.live)) := rfl
@[simp] theorem runCycle_prog (s : State) : (runCycle s).prog = s.prog := rfl
@[simp] theorem runCycle_hist (s : State) : (runCycle s).hist = pushHistory s.cfg s.live s.hist := rfl
@[simp] theorem runCycle_inbox (s : State) : (runCycle s).inbox = s.inbox := rfl
@[simp] theorem runCycle_loadError (s : State) : (runCycle s).loadError = s.loadError := rfl

/-! ### runCycleIssuing -/

@[simp] theorem runCycleIssuing_cfg (i : Record) (s : State) : (runCycleIssuing i s).cfg = s.cfg := rfl
@[simp] theorem runCycleIssuing_live (i : Record) (s : State) :
    (runCycleIssuing i s).live = endCycle (offer s.cfg (stagesBeforeIssue s.cfg s.live) i) := rfl
@[simp] theorem runCycleIssuing_prog (i : Record) (s : State) : (runCycleIssuing i s).prog = s.prog := rfl
@[simp] theorem runCycleIssuing_hist (i : Record) (s : State) :
    (runCycleIssuing i s).hist = pushHistory s.cfg s.live s.hist := rfl
@[simp] theorem runCycleIssuing_inbox (i : Record) (s : State) : (runCycleIssuing i s).inbox = s.inbox := rfl
@[simp] theorem runCycleIssuing_loadError (i : Record) (s : State) :
    (runCycleIssuing i s).loadError = s.loadError := rfl

end Sys2Proof.Machine
end

