-- ==== Sys2Proof/Laws/Table.lean ====
section
/-! SUPPORT. Reading a table after writing it. -/

namespace Sys2Proof.Machine

variable {α : Type} {n : Nat}

@[simp] theorem entry_setEntry_same (t : Vector α n) (i : Fin n) (x : α) : entry (setEntry t i x) i = x := by
  simp [entry, setEntry]

theorem entry_setEntry_ne (t : Vector α n) {i j : Fin n} (x : α) (h : j ≠ i) : entry (setEntry t i x) j = entry t j := by
  have : i.val ≠ j.val := fun e => h (Fin.ext e.symm)
  simp [entry, setEntry, this]

theorem entry_setEntry (t : Vector α n) (i j : Fin n) (x : α) :
    entry (setEntry t i x) j = if j = i then x else entry t j := by
  split
  · next h => subst h; simp
  · next h => exact entry_setEntry_ne t x h

@[simp] theorem entry_tabulate (f : Fin n → α) (i : Fin n) : entry (tabulate f) i = f i := by
  simp [entry, tabulate]

@[simp] theorem entry_filled (x : α) (i : Fin n) : entry (filled n x) i = x := by simp [entry, filled]

/-- Two tables with equal entries are equal. -/
theorem table_ext {t u : Vector α n} (h : ∀ i, entry t i = entry u i) : t = u :=
  Vector.ext fun i hi => h ⟨i, hi⟩

/-- Writing back what an entry holds changes nothing. -/
@[simp] theorem setEntry_entry (t : Vector α n) (i : Fin n) : setEntry t i (entry t i) = t :=
  table_ext fun j => by rw [entry_setEntry]; split <;> simp_all

/-- The last of two writes to one entry stays. -/
@[simp] theorem setEntry_setEntry (t : Vector α n) (i : Fin n) (x y : α) :
    setEntry (setEntry t i x) i y = setEntry t i y :=
  table_ext fun j => by simp only [entry_setEntry]; split <;> rfl

/-- Writes to different entries commute. -/
theorem setEntry_comm (t : Vector α n) {i j : Fin n} (x y : α) (h : i ≠ j) :
    setEntry (setEntry t i x) j y = setEntry (setEntry t j y) i x :=
  table_ext fun k => by
    simp only [entry_setEntry]
    by_cases hj : k = j <;> by_cases hi : k = i <;> simp_all

end Sys2Proof.Machine
end

