-- ==== Sys2Proof/Laws/Ops.lean ====
section
/-! SUPPORT. For each shared operation, once, everything it can do: later proofs cite these instead of unfolding it. -/

namespace Sys2Proof.Machine

/-- Everything Commit can do: nothing, retire a non-branch with its register write, retire a branch, flush. -/
theorem commitStage_cases (c : Config) (m : Snapshot) :
    (((entry m.rob m.head).busy = false ∨ (entry m.rob m.head).state ≠ .ready ∨ (entry m.rob m.head).instr = none) ∧
      commitStage c m = m) ∨
    ((entry m.rob m.head).busy = true ∧ (entry m.rob m.head).state = .ready ∧
      ∃ i, (entry m.rob m.head).instr = some i ∧
        ((i.op.isBranch = false ∧
            commitStage c m = retireHead (commitWrite c m (entry m.rob m.head) i) (entry m.rob m.head) i) ∨
          (i.op.isBranch = true ∧ (entry m.rob m.head).shouldBranch = false ∧
            commitStage c m = retireHead m (entry m.rob m.head) i) ∨
          (i.op.isBranch = true ∧ (entry m.rob m.head).shouldBranch = true ∧
            commitStage c m = commitMispredicted m (entry m.rob m.head) i))) := by
  unfold commitStage
  by_cases hb : (entry m.rob m.head).busy = true
  · by_cases hr : (entry m.rob m.head).state = .ready
    · cases hi : (entry m.rob m.head).instr with
      | none => left; simp [hb, hr, hi]
      | some i =>
        right
        refine ⟨hb, hr, i, rfl, ?_⟩
        cases hbr : i.op.isBranch <;> cases hs : (entry m.rob m.head).shouldBranch <;> simp [hb, hr, hi, hbr, hs]
    · left; simp [hr]
  · left; simp [hb]

/-- Everything the register write of Commit can do: nothing, or write the destination and clear its rename if it is this
slot's. -/
theorem commitWrite_cases (c : Config) (m : Snapshot) (e : RobEntry) (i : Record) :
    (((i.op.isStore = true ∧ c.storeCommitWritesRd = false) ∨ e.dest = none) ∧ commitWrite c m e i = m) ∨
    (¬(i.op.isStore = true ∧ c.storeCommitWritesRd = false) ∧
      ∃ d, e.dest = some d ∧ commitWrite c m e i = clearRename (writeReg c m d e.value) d m.head) := by
  unfold commitWrite
  cases hs : i.op.isStore <;> cases hc : c.storeCommitWritesRd <;> cases hd : e.dest <;> simp

/-- The status table after the conditional clear; every other field is as before. -/
theorem clearRename_eq (m : Snapshot) (d : RegIx) (b : RobIx) :
    clearRename m d b = { m with rst := if entry m.rst d = some b then setEntry m.rst d none else m.rst } := by
  unfold clearRename
  split <;> rfl

/-- Everything the Issue stage with a record at `pc` can do: a bubble, or a dispatch into a free station of its class. -/
theorem offer_cases (c : Config) (m : Snapshot) (i : Record) :
    ((freeStation m.rs (opClass i.op) = none ∨ (entry m.rob m.tail).busy = true) ∧ offer c m i = bubble m) ∨
    ∃ r, freeStation m.rs (opClass i.op) = some r ∧ (entry m.rob m.tail).busy = false ∧ offer c m i = dispatch c m i r := by
  unfold offer
  cases hf : freeStation m.rs (opClass i.op) with
  | none => left; simp
  | some r => cases hb : (entry m.rob m.tail).busy <;> simp

/-- Everything the Issue stage can do: nothing past the end of the stream, else what it does with the record at `pc`. -/
theorem issueStage_cases (c : Config) (prog : List Record) (m : Snapshot) :
    (prog.length ≤ m.pc ∧ issueStage c prog m = m) ∨
    ∃ i, prog[m.pc]? = some i ∧ issueStage c prog m = offer c m i := by
  unfold issueStage
  cases hp : prog[m.pc]? with
  | none => left; exact ⟨by simpa using hp, rfl⟩
  | some i => right; exact ⟨i, rfl, rfl⟩

/-- The station chosen is free and of the class. -/
theorem freeStation_some {rs : Vector RsEntry 5} {k : OpClass} {r : RsIx} (h : freeStation rs k = some r) :
    r ∈ stationsOf k ∧ (entry rs r).busy = false := by
  refine ⟨List.mem_of_find?_eq_some h, ?_⟩
  have := List.find?_some h
  simpa using this

/-- No station is chosen exactly when all of the class are busy. -/
theorem freeStation_none {rs : Vector RsEntry 5} {k : OpClass} :
    freeStation rs k = none ↔ ∀ r ∈ stationsOf k, (entry rs r).busy = true := by
  simp [freeStation]

/-- Everything operand resolution can answer. -/
theorem readOperand_cases (c : Config) (m : Snapshot) (s : RegIx) :
    (entry m.rst s = none ∧ readOperand c m s = .val (entry m.rf s)) ∨
    ∃ q, entry m.rst s = some q ∧
      ((c.issueReadsReadyRob = true ∧ (entry m.rob q).state = .ready ∧
          readOperand c m s = .val (entry m.rob q).value) ∨
        (¬(c.issueReadsReadyRob = true ∧ (entry m.rob q).state = .ready) ∧ readOperand c m s = .tag q)) := by
  unfold readOperand
  cases hr : entry m.rst s with
  | none => left; simp
  | some q =>
    right
    refine ⟨q, rfl, ?_⟩
    by_cases hc : c.issueReadsReadyRob = true <;> by_cases hs : (entry m.rob q).state = .ready <;> simp [hc, hs]

/-- Everything `step_back` can do. -/
theorem popHistory_cases (s : State) :
    (s.hist = [] ∧ popHistory s = s) ∨
    ∃ m rest, s.hist = m :: rest ∧ popHistory s = { s with live := m, hist := rest } := by
  unfold popHistory
  cases h : s.hist with
  | nil => left; exact ⟨rfl, rfl⟩
  | cons m rest => right; exact ⟨m, rest, rfl, rfl⟩

/-- Everything `load_program` can do. -/
theorem loadEngine_cases (s : State) (p : List RawRecord) :
    (∃ e, checkProgram p = .error e ∧ loadEngine s p = { s with loadError := some e }) ∨
    ∃ q, checkProgram p = .ok q ∧ loadEngine s p = installProgram s q := by
  unfold loadEngine
  cases h : checkProgram p with
  | error e => left; exact ⟨e, rfl, rfl⟩
  | ok q => right; exact ⟨q, rfl, rfl⟩

/-- Every Snapshot of the history after a push is the pushed one or was there before. -/
theorem mem_pushHistory {c : Config} {m x : Snapshot} {hist : List Snapshot} (h : x ∈ pushHistory c m hist) :
    x = m ∨ x ∈ hist := by
  unfold pushHistory at h
  split at h
  · simpa using h
  · have := List.mem_of_mem_take h
    simpa using this

/-- Everything one clock edge can do: construction when `rst` is high, else the command on the port. -/
theorem step_cases {s t : State} (h : step s = .next t) :
    ((sampledInput s).rst = true ∧ t = constructEngine (takeInput s)) ∨
    ((sampledInput s).rst = false ∧
      exec (decodeCmd (sampledInput s).cmd (sampledInput s).stream) (takeInput s) = .next t) := by
  unfold step at h
  cases hr : (sampledInput s).rst with
  | true => left; simp [hr] at h; exact ⟨rfl, h.symm⟩
  | false => right; simp [hr] at h; exact ⟨rfl, h⟩

/-- The five commands a code on the port can be. -/
theorem decodeCmd_cases (k : CmdCode) (p : List RawRecord) :
    decodeCmd k p = .nop ∨ decodeCmd k p = .step ∨ decodeCmd k p = .stepBack ∨ decodeCmd k p = .reset ∨
      decodeCmd k p = .loadProgram p := by
  unfold decodeCmd
  split <;> simp

/-- A cycle whose Issue stage fetches record `i` is the cycle that issues `i`. -/
theorem runCycle_eq_issuing {s : State} {i : Record} (h : fetchedRecord s = some i) :
    runCycle s = runCycleIssuing i s := by
  have h' : s.prog[(stagesBeforeIssue s.cfg s.live).pc]? = some i := h
  simp [runCycle, runCycleIssuing, issueStage, h']

/-! ### Fields the Writeback stage leaves alone -/

theorem foldl_broadcast_cycle (c : Config) (l : List RsIx) (m : Snapshot) : (l.foldl (broadcast c) m).cycle = m.cycle := by
  induction l generalizing m with
  | nil => rfl
  | cons r l ih => rw [List.foldl_cons, ih, broadcast_cycle]

@[simp] theorem writebackStage_cycle (c : Config) (m : Snapshot) : (writebackStage c m).cycle = m.cycle :=
  foldl_broadcast_cycle c _ m

theorem foldl_broadcast_pc (c : Config) (l : List RsIx) (m : Snapshot) : (l.foldl (broadcast c) m).pc = m.pc := by
  induction l generalizing m with
  | nil => rfl
  | cons r l ih => rw [List.foldl_cons, ih, broadcast_pc]

@[simp] theorem writebackStage_pc (c : Config) (m : Snapshot) : (writebackStage c m).pc = m.pc :=
  foldl_broadcast_pc c _ m

theorem foldl_broadcast_head (c : Config) (l : List RsIx) (m : Snapshot) : (l.foldl (broadcast c) m).head = m.head := by
  induction l generalizing m with
  | nil => rfl
  | cons r l ih => rw [List.foldl_cons, ih, broadcast_head]

@[simp] theorem writebackStage_head (c : Config) (m : Snapshot) : (writebackStage c m).head = m.head :=
  foldl_broadcast_head c _ m

theorem foldl_broadcast_tail (c : Config) (l : List RsIx) (m : Snapshot) : (l.foldl (broadcast c) m).tail = m.tail := by
  induction l generalizing m with
  | nil => rfl
  | cons r l ih => rw [List.foldl_cons, ih, broadcast_tail]

@[simp] theorem writebackStage_tail (c : Config) (m : Snapshot) : (writebackStage c m).tail = m.tail :=
  foldl_broadcast_tail c _ m

theorem foldl_broadcast_rf (c : Config) (l : List RsIx) (m : Snapshot) : (l.foldl (broadcast c) m).rf = m.rf := by
  induction l generalizing m with
  | nil => rfl
  | cons r l ih => rw [List.foldl_cons, ih, broadcast_rf]

@[simp] theorem writebackStage_rf (c : Config) (m : Snapshot) : (writebackStage c m).rf = m.rf :=
  foldl_broadcast_rf c _ m

theorem foldl_broadcast_rst (c : Config) (l : List RsIx) (m : Snapshot) : (l.foldl (broadcast c) m).rst = m.rst := by
  induction l generalizing m with
  | nil => rfl
  | cons r l ih => rw [List.foldl_cons, ih, broadcast_rst]

@[simp] theorem writebackStage_rst (c : Config) (m : Snapshot) : (writebackStage c m).rst = m.rst :=
  foldl_broadcast_rst c _ m

theorem foldl_broadcast_committed (c : Config) (l : List RsIx) (m : Snapshot) : (l.foldl (broadcast c) m).committed = m.committed := by
  induction l generalizing m with
  | nil => rfl
  | cons r l ih => rw [List.foldl_cons, ih, broadcast_committed]

@[simp] theorem writebackStage_committed (c : Config) (m : Snapshot) : (writebackStage c m).committed = m.committed :=
  foldl_broadcast_committed c _ m

theorem foldl_broadcast_bubbles (c : Config) (l : List RsIx) (m : Snapshot) : (l.foldl (broadcast c) m).bubbles = m.bubbles := by
  induction l generalizing m with
  | nil => rfl
  | cons r l ih => rw [List.foldl_cons, ih, broadcast_bubbles]

@[simp] theorem writebackStage_bubbles (c : Config) (m : Snapshot) : (writebackStage c m).bubbles = m.bubbles :=
  foldl_broadcast_bubbles c _ m

theorem foldl_broadcast_flushes (c : Config) (l : List RsIx) (m : Snapshot) : (l.foldl (broadcast c) m).flushes = m.flushes := by
  induction l generalizing m with
  | nil => rfl
  | cons r l ih => rw [List.foldl_cons, ih, broadcast_flushes]

@[simp] theorem writebackStage_flushes (c : Config) (m : Snapshot) : (writebackStage c m).flushes = m.flushes :=
  foldl_broadcast_flushes c _ m

theorem foldl_broadcast_log (c : Config) (l : List RsIx) (m : Snapshot) : (l.foldl (broadcast c) m).log = m.log := by
  induction l generalizing m with
  | nil => rfl
  | cons r l ih => rw [List.foldl_cons, ih, broadcast_log]

@[simp] theorem writebackStage_log (c : Config) (m : Snapshot) : (writebackStage c m).log = m.log :=
  foldl_broadcast_log c _ m

end Sys2Proof.Machine
end

