-- ==== Sys2Proof/Laws/PerInstr.lean ====
section
/-! SUPPORT. A statement about every instruction as syntax, proved constructor by constructor. -/

namespace Sys2Proof.Laws.RowCode

/-- The code of the instruction's row (30_encoding R97, R103). -/
def rowCode : Instr → Nat
  | .add _ _ _ _ => 0
  | .sub _ _ _ _ => 1
  | .mul _ _ _ _ => 2
  | .div _ _ _ _ => 3
  | .lw _ _ _ _ => 4
  | .sw _ _ _ _ => 5
  | .beq _ _ _ _ => 6
  | .bne _ _ _ _ => 7
  | .nop => 0
  | .step => 1
  | .stepBack => 2
  | .reset => 3
  | .loadProgram _ => 4

/-- The operation code of a code: `W[31:29]` of a packed word, `cmd` on the port. -/
def opcodeOf : Code → Nat
  | .word w => w.toNat / 2 ^ 29
  | .command cmd _ => cmd.toNat

/-- The code of the instruction, where it has one, carries its row's operation code. -/
def Statement (i : Instr) : Prop := ∀ c, encode i = some c → opcodeOf c = rowCode i

/-- The operation code of a packed word is the top field. -/
theorem packWord_opcode (op : Op) (a b c : BitVec 5) (d : BitVec 14) :
    (packWord op a b c d).toNat / 2 ^ 29 = (codeOfOp op).toNat := by
  have := a.isLt
  have := b.isLt
  have := c.isLt
  have := d.isLt
  rw [packWord_toNat]
  omega

/-- The operation code of an encoded record. -/
theorem stream {r : Record} {c : Code} (h : encodeStream r = some c) : opcodeOf c = (codeOfOp r.op).toNat := by
  unfold encodeStream encodeRecord at h
  split at h
  · split at h
    · simp at h
    · split at h
      · simp at h; subst h; exact packWord_opcode _ _ _ _ _
      · simp at h
  · simp at h; subst h; exact packWord_opcode _ _ _ _ _

theorem add (rd rs1 rs2 : RegIx) (off : Option Int) : Statement (.add rd rs1 rs2 off) := fun _ h => stream h
theorem sub (rd rs1 rs2 : RegIx) (off : Option Int) : Statement (.sub rd rs1 rs2 off) := fun _ h => stream h
theorem mul (rd rs1 rs2 : RegIx) (off : Option Int) : Statement (.mul rd rs1 rs2 off) := fun _ h => stream h
theorem div (rd rs1 rs2 : RegIx) (off : Option Int) : Statement (.div rd rs1 rs2 off) := fun _ h => stream h
theorem lw (rd rs1 rs2 : RegIx) (off : Option Int) : Statement (.lw rd rs1 rs2 off) := fun _ h => stream h
theorem sw (rd rs1 rs2 : RegIx) (off : Option Int) : Statement (.sw rd rs1 rs2 off) := fun _ h => stream h
theorem beq (rd rs1 rs2 : RegIx) (off : Option Int) : Statement (.beq rd rs1 rs2 off) := fun _ h => stream h
theorem bne (rd rs1 rs2 : RegIx) (off : Option Int) : Statement (.bne rd rs1 rs2 off) := fun _ h => stream h

theorem nop : Statement .nop := fun c h => by cases h; rfl
theorem step : Statement .step := fun c h => by cases h; rfl
theorem stepBack : Statement .stepBack := fun c h => by cases h; rfl
theorem reset : Statement .reset := fun c h => by cases h; rfl
theorem loadProgram (p : List RawRecord) : Statement (.loadProgram p) := fun c h => by cases h; rfl

end Sys2Proof.Laws.RowCode
end

