-- ==== Sys2Proof/Tests/Slice0.lean ====
section
/-! SUPPORT. Tests: words written out from 30_encoding R96, R97 and R106, the refusals of 30_encoding R94, single steps whose
expected results are the vectors of 95_test_vectors, and for each obligation with hypotheses a state that meets them. -/

namespace Sys2Proof.Tests

open Sys2Proof.Machine

/-! ### Helpers -/

/-- The default parameters with every register seeded 0. -/
def cfg0 : Config where
  xlen := .bits 32
  divRound := .floor
  regReset := filled 32 0
  regSeed := filled 32 0
  histDepth := none
  storeCommitWritesRd := true
  issueReadsReadyRob := false

/-- A register file that starts with these values. -/
def regs (l : List Int) : Vector Val 32 := tabulate fun i => l.getD i.val 0

/-- Nothing in flight, these registers, this stream. -/
def idle (l : List Int) (prog : List Record) : State := ⟨cfg0, freshSnapshot (regs l), prog, [], [], none⟩

/-- Record `i` in slot 0 and station `r`, its countdown finished, with these operands: the next step writes it back. -/
def finishing (c : Config) (i : Record) (r : RsIx) (a b : Int) : State :=
  let m := freshSnapshot (regs [])
  { idle [] [i] with
    cfg := c
    live :=
      { m with
        pc := 1
        tail := 1
        rs := setEntry m.rs r ⟨true, i.op, .val a, .val b, 0, 0, 0⟩
        rob := setEntry m.rob 0 ⟨true, some i, .executing, 0, destOf i, false, 0⟩
        rst := if i.op.writesRename then setEntry m.rst i.rd (some 0) else m.rst
        log := [.issue 0 i r 0] } }

/-- Record `i` in slot 0 with its result: the next step commits it. -/
def committing (i : Record) (v : Int) (taken : Bool) (target : Nat) : State :=
  let m := freshSnapshot (regs [])
  { idle [] [i] with
    live :=
      { m with
        pc := 1
        tail := 1
        rob := setEntry m.rob 0 ⟨true, some i, .ready, v, destOf i, taken, target⟩
        rst := if i.op.writesRename then setEntry m.rst i.rd (some 0) else m.rst
        log := [.issue 0 i 0 0] } }

/-- The state an outcome of this machine holds. -/
def out (o : Host.Outcome State Fault Refusal) : Option State :=
  match o with
  | .next t => some t
  | .fault _ => none
  | .refused _ => none

/-- `ADD R1 R2 R3`, as the host writes it and as it stands in the stream. -/
def add123 : Record := ⟨.add, 1, 2, 3, none⟩

/-- A taken `BEQ R0 R0 off`. -/
def beq00 (off : Int) : Record := ⟨.beq, 0, 0, 0, some off⟩

/-! ### Well-formedness -/

theorem test_wf_refuses_rd_32 : (⟨.add, 32, 2, 3, none⟩ : RawRecord).wf 0 = false := by decide
theorem test_wf_refuses_rs1_40 : (⟨.sub, 4, 40, 5, none⟩ : RawRecord).wf 1 = false := by decide
theorem test_wf_refuses_rs2_negative : (⟨.add, 1, 2, -1, none⟩ : RawRecord).wf 0 = false := by decide
theorem test_wf_refuses_ignored_rd_of_a_branch : (⟨.beq, 99, 2, 3, some 1⟩ : RawRecord).wf 0 = false := by decide
theorem test_wf_refuses_missing_offset : (⟨.beq, 0, 2, 3, none⟩ : RawRecord).wf 0 = false := by decide
theorem test_wf_refuses_negative_target : (⟨.beq, 0, 2, 3, some (-2)⟩ : RawRecord).wf 0 = false := by decide
theorem test_wf_accepts_boundaries :
    (⟨.beq, 31, 31, 0, some (-1)⟩ : RawRecord).wf 0 = true ∧ (⟨.add, 1, 2, 3, some 7⟩ : RawRecord).wf 0 = true ∧
      (⟨.beq, 0, 2, 3, some 1000⟩ : RawRecord).wf 0 = true := by decide
theorem test_wf_stream_refuses_missing_offset : (⟨.bne, 0, 1, 2, none⟩ : Record).wf 0 = false := by decide
theorem test_wf_stream_refuses_negative_target : (⟨.bne, 0, 1, 2, some (-5)⟩ : Record).wf 3 = false := by decide
theorem test_canonical_refuses_rd_of_a_branch : (⟨.beq, 5, 2, 3, some 1⟩ : Record).canonical = false := by decide
theorem test_canonical_refuses_long_offsets :
    (beq00 8192).canonical = false ∧ (beq00 (-8193)).canonical = false := by decide
theorem test_canonical_refuses_missing_offset : (⟨.bne, 0, 2, 3, none⟩ : Record).canonical = false := by decide
theorem test_canonical_refuses_offset_of_an_add : (Instr.add 1 2 3 (some 7)).wf = false := by decide

/-- The reasons of 95_test_vectors V-W, with the order of 60_exceptions R262. -/
theorem test_load_refusal_reasons :
    checkProgram [⟨.add, 32, 2, 3, none⟩] = .error (.regIndexOutOfRange 0 .rd) ∧
      checkProgram [⟨.add, 1, 2, 3, none⟩, ⟨.sub, 4, 40, 5, none⟩] = .error (.regIndexOutOfRange 1 .rs1) ∧
      checkProgram [⟨.beq, 0, 2, 3, none⟩] = .error (.branchOffsetMissing 0) ∧
      checkProgram [⟨.bne, 0, 2, 3, some (-5)⟩, ⟨.add, 1, 2, 33, none⟩] = .error (.branchTargetNegative 0) ∧
      checkProgram [⟨.bne, 0, 2, 35, none⟩] = .error (.regIndexOutOfRange 0 .rs2) := ⟨rfl, rfl, rfl, rfl, rfl⟩

/-! ### Decoding and encoding -/

/-- A word written field by field, as the bit column of 30_encoding R106 has it. -/
def bits (opc : BitVec 3) (rd rs1 rs2 : BitVec 5) (off14 : BitVec 14) : StreamWord := opc ++ rd ++ rs1 ++ rs2 ++ off14

theorem test_decode_add : decode (.word (bits 0b000 0b00001 0b00010 0b00011 0)) = .add 1 2 3 none := by decide
theorem test_decode_sub : decode (.word (bits 0b001 0b00100 0b00001 0b00101 0)) = .sub 4 1 5 none := by decide
theorem test_decode_mul : decode (.word (bits 0b010 0b00001 0b00010 0b00011 0)) = .mul 1 2 3 none := by decide
theorem test_decode_div : decode (.word (bits 0b011 0b00001 0b00010 0b00110 0)) = .div 1 2 6 none := by decide
theorem test_decode_lw : decode (.word (bits 0b100 0b00001 0b00010 0b00011 0)) = .lw 1 2 3 none := by decide
theorem test_decode_sw : decode (.word (bits 0b101 0b00100 0b00010 0b00011 0)) = .sw 4 2 3 none := by decide
theorem test_decode_beq :
    decode (.word (bits 0b110 0b00000 0b00010 0b00011 0b00000000000001)) = .beq 0 2 3 (some 1) := by decide
theorem test_decode_bne :
    decode (.word (bits 0b111 0b00000 0b00001 0b00000 0b11111111111110)) = .bne 0 1 0 (some (-2)) := by decide
theorem test_decode_offset_ends :
    decode (.word 0xC0FFE000) = .beq 0 31 31 (some (-8192)) ∧ decode (.word 0xE0001FFF) = .bne 0 0 0 (some 8191) := by
  decide
theorem test_decode_non_canonical :
    decode (.word 0xDEADBEEF) = .beq 30 21 22 (some (-273)) ∧ decode (.word 0x0110C123) = .add 1 2 3 none := by decide
theorem test_decode_nop : decode (.command 0b000 []) = .nop := by decide
theorem test_decode_step : decode (.command 0b001 []) = .step := by decide
theorem test_decode_step_back : decode (.command 0b010 []) = .stepBack := by decide
theorem test_decode_reset : decode (.command 0b011 []) = .reset := by decide
theorem test_decode_load_program :
    decode (.command 0b100 [⟨.add, 1, 2, 3, none⟩]) = .loadProgram [⟨.add, 1, 2, 3, none⟩] := by decide
theorem test_decode_reserved_commands :
    decode (.command 0b101 []) = .nop ∧ decode (.command 0b110 []) = .nop ∧ decode (.command 0b111 []) = .nop := by decide
theorem test_decode_bytes_little_endian :
    decodeStreamBytes [0x00, 0xC0, 0x10, 0x01, 0xAA] = .ok (.add 1 2 3 none, [0xAA]) := rfl
theorem test_decode_rejects_three_bytes : decodeStreamBytes [0x00, 0xC0, 0x10] = .error .truncated := rfl
theorem test_decode_rejects_byte_eight : decodeCommandBytes [] [8] = .error .notACommandCode := rfl
theorem test_table_words :
    decodeTableWord 32 0x61118000 = some (.div 1 2 6 none) ∧ decodeTableWord 8 2 = some .stepBack ∧
      decodeTableWord 8 8 = none ∧ decodeTableWord 40 0 = none := by decide
theorem test_encode_words :
    encode (.sw 4 2 3 none) = some (.word 0xA410C000) ∧ encode (.bne 0 1 0 (some (-2))) = some (.word 0xE0083FFE) ∧
      encode (.beq 5 2 3 (some 1)) = some (.word 0xC010C001) ∧ encode (.beq 0 2 3 (some 8192)) = none := by decide

/-! ### Single steps: results (95_test_vectors V-A, V-D, V-M, V-B) -/

/-- The result the next step writes to slot 0. -/
def result (s : State) : Val := (entry (runCycle s).live.rob 0).value

theorem test_add_wraps : result (finishing cfg0 add123 0 2147483647 1) = -2147483648 := by decide
theorem test_sub_order : result (finishing cfg0 ⟨.sub, 1, 2, 3, none⟩ 0 0 1) = -1 := by decide
theorem test_mul_wraps : result (finishing cfg0 ⟨.mul, 1, 2, 3, none⟩ 3 46341 46341) = -2147479015 := by decide
theorem test_div_rounds :
    result (finishing cfg0 ⟨.div, 1, 2, 3, none⟩ 3 (-7) 2) = -4 ∧
      result (finishing { cfg0 with divRound := .trunc } ⟨.div, 1, 2, 3, none⟩ 3 (-7) 2) = -3 := by decide
theorem test_div_corners :
    result (finishing cfg0 ⟨.div, 1, 2, 3, none⟩ 4 (-5) 0) = 0 ∧
      result (finishing cfg0 ⟨.div, 1, 2, 3, none⟩ 4 (-2147483648) (-1)) = -2147483648 := by decide
theorem test_lw_address : result (finishing cfg0 ⟨.lw, 1, 2, 3, none⟩ 2 (-4) 3) = -1 := by decide
theorem test_sw_address : result (finishing cfg0 ⟨.sw, 1, 2, 3, none⟩ 1 (-2147483648) (-1)) = 2147483647 := by decide
theorem test_beq_outcome :
    ((entry (runCycle (finishing cfg0 ⟨.beq, 0, 2, 3, some 3⟩ 0 5 5)).live.rob 0).shouldBranch,
      (entry (runCycle (finishing cfg0 ⟨.beq, 0, 2, 3, some 3⟩ 0 5 5)).live.rob 0).targetPc) = (true, 4) := by decide
theorem test_bne_outcome :
    ((entry (runCycle (finishing cfg0 ⟨.bne, 0, 2, 3, some (-1)⟩ 0 0 0)).live.rob 0).shouldBranch,
      (entry (runCycle (finishing cfg0 ⟨.bne, 0, 2, 3, some (-1)⟩ 0 0 0)).live.rob 0).targetPc) = (false, 0) := by decide

/-! ### Single steps: Issue, Commit, commands -/

theorem test_issue_source_is_destination :
    (out (exec (.add 2 2 2 none) (idle [0, 0, 21] []))).map
        (fun t => ((entry t.live.rs 0).j, (entry t.live.rs 0).k, entry t.live.rst 2)) =
      some (.val 21, .val 21, some 0) := by decide
theorem test_issue_div_takes_a_multiply_station :
    (out (exec (.div 1 2 3 none) (idle [] []))).map (fun t => ((entry t.live.rs 3).busy, (entry t.live.rs 3).lat)) =
      some (true, 10) := by decide
theorem test_issue_sw_claims_no_rename :
    (out (exec (.sw 1 2 3 none) (idle [] []))).map (fun t => (entry t.live.rst 1, (entry t.live.rob 0).dest)) =
      some (none, some 1) := by decide
theorem test_issue_bne_has_no_destination :
    (out (exec (.bne 1 2 3 (some 0)) (idle [] []))).map (fun t => ((entry t.live.rob 0).dest, t.live.pc)) =
      some (none, 1) := by decide
theorem test_commit_writes :
    (entry (runCycle (committing add123 15 false 0)).live.rf 1, entry (runCycle (committing add123 15 false 0)).live.rst 1) =
      (15, none) := by decide
theorem test_commit_sw_parameter :
    entry (runCycle (committing ⟨.sw, 1, 2, 3, none⟩ 15 false 0)).live.rf 1 = 15 ∧
      entry (runCycle { committing ⟨.sw, 1, 2, 3, none⟩ 15 false 0 with
        cfg := { cfg0 with storeCommitWritesRd := false } }).live.rf 1 = 0 := by decide
/-- C2, C7: after the flush in Commit, Issue of the same step starts at the target. -/
theorem test_flush_then_issue :
    let t := (runCycle (committing (beq00 (-1)) 0 true 0)).live
    (t.flushes, t.committed, t.head, t.tail, t.pc, (entry t.rob 0).state) = (1, 1, 0, 1, 1, .executing) := by decide
theorem test_step_past_the_end :
    let t := (runCycle (idle [] [])).live
    (t.cycle, t.bubbles, t.pc) = (1, 0, 0) := by decide
theorem test_step_back :
    (out (exec .stepBack { idle [] [] with hist := [{ freshSnapshot (regs []) with pc := 7 }] })).map
        (fun t => (t.live.pc, t.hist.length)) = some (7, 0) := by decide
theorem test_history_depth_two :
    (pushHistory { cfg0 with histDepth := some 2 } { freshSnapshot (regs []) with cycle := 2 }
        [{ freshSnapshot (regs []) with cycle := 1 }, freshSnapshot (regs [])]).map Snapshot.cycle = [2, 1] := by decide
theorem test_reset_keeps_the_program :
    (out (exec .reset { idle [9] [add123] with live := { freshSnapshot (regs [9]) with pc := 1 } })).map
        (fun t => (t.live.pc, entry t.live.rf 0, t.prog)) = some (0, 0, [add123]) := by decide
theorem test_load_seeds :
    (out (exec (.loadProgram [⟨.add, 1, 2, 3, none⟩]) { idle [] [] with cfg := { cfg0 with regSeed := regs [4, 5] } })).map
        (fun t => (entry t.live.rf 1, t.prog, t.loadError)) = some (5, [add123], none) := by decide
theorem test_load_refused :
    (out (exec (.loadProgram [⟨.beq, 0, 2, 3, none⟩]) (idle [8] [add123]))).map
        (fun t => (entry t.live.rf 0, t.prog, t.loadError)) = some (8, [add123], some (.branchOffsetMissing 0)) := by decide
theorem test_nop : (out (exec .nop (idle [8] [add123]))).map (fun t => (entry t.live.rf 0, t.live.cycle)) = some (8, 0) := by
  decide
/-- 95_test_vectors V-H5: `rst` together with `STEP` performs the reset only. -/
theorem test_rst_wins :
    (out (step { idle [8] [add123] with inbox := [⟨true, 1, []⟩] })).map
        (fun t => (t.live.cycle, entry t.live.rf 0, t.prog, t.hist.length)) = some (0, 0, [], 0) := by decide
/-- 95_test_vectors V-H4: `ipc` of scenario S1. -/
theorem test_ipc :
    (getMetrics { idle [] [] with live := { freshSnapshot (regs []) with cycle := 7, committed := 2 } }).ipc = 2 / 7 := by
  norm_num [getMetrics]
theorem test_table_word_runs_after_reset :
    (out (step (State.reset.withFetchWord 32 0x61118000))).map
        (fun t => ((entry t.live.rs 3).op, (entry t.live.rob 0).instr)) =
      some (.div, some ⟨.div, 1, 2, 6, none⟩) := by decide

/-- The codes of 10_state R49. -/
theorem test_rob_state_codes :
    (robStateCode .waiting, robStateCode .executing, robStateCode .ready, robStateOfCode 3) =
      (0b00#2, 0b01#2, 0b10#2, none) := by decide
theorem test_operand_width : (fieldWidths cfg0).operand = some 33 := by decide
theorem test_accessors_of_pc_head_tail_prog :
    let s := { idle [] [add123] with live := { freshSnapshot (regs []) with pc := 4, head := 5, tail := 6 } }
    (readPc s, readHead s, readTail s, readProg s) = (4, 5, 6, [add123]) := by decide

/-! ### States that meet the obligations' hypotheses

`test_meets_<Name>` shows that the hypotheses of `Obligations.<Name>` hold together somewhere; where it has several clauses,
at a boundary of each. -/

/-- Four instructions: the fourth reads `R1` in the cycle in which the first writes back. -/
def prog4 : List Record := [add123, ⟨.mul, 4, 2, 3, none⟩, ⟨.mul, 5, 2, 3, none⟩, ⟨.add, 6, 1, 1, none⟩]

/-- `prog4` after `n` steps, with `STEP` on the port. -/
def flying (n : Nat) : State := { runSteps n (idle [0, 0, 5, 10] prog4) with inbox := [⟨false, 1, []⟩] }

/-- Stations 0 and 1 finished on slots 0 and 1, station 2 waiting for slot 0. -/
def crowded : Snapshot :=
  let m := freshSnapshot (regs [])
  { m with
    tail := 3
    rs := setEntry (setEntry (setEntry m.rs 0 ⟨true, .add, .val 1, .val 2, 0, 0, 0⟩) 1 ⟨true, .sub, .val 5, .val 3, 0, 1, 1⟩) 2
      ⟨true, .add, .tag 0, .val 7, 2, 2, 2⟩
    rob := setEntry (setEntry (setEntry m.rob 0 ⟨true, some add123, .executing, 0, some 1, false, 0⟩) 1
      ⟨true, some ⟨.sub, 2, 3, 4, none⟩, .executing, 0, some 2, false, 0⟩) 2
      ⟨true, some ⟨.add, 3, 1, 4, none⟩, .executing, 0, some 3, false, 0⟩ }

/-- `crowded` with station 3 waiting on its second operand, and station 4 on both, for slot 1. -/
def crowdedMul : Snapshot :=
  { crowded with
    rs := setEntry (setEntry crowded.rs 3 ⟨true, .mul, .val 4, .tag 1, 4, 3, 3⟩) 4 ⟨true, .mul, .tag 1, .tag 1, 4, 4, 4⟩ }

/-- `crowdedMul` with station 4 waiting for slots 0 and 1. -/
def crowdedTwo : Snapshot :=
  { crowdedMul with rs := setEntry crowdedMul.rs 4 ⟨true, .mul, .tag 0, .tag 1, 4, 4, 4⟩ }

/-- A full reorder buffer from slot 3 on. -/
def fullRob : Snapshot :=
  { freshSnapshot (regs []) with
    head := 3
    tail := 3
    rob := filled 8 ⟨true, some add123, .ready, 0, some 1, false, 0⟩ }

/-- The same with an unfinished instruction at `head`. -/
def blocked : State :=
  { idle [] [] with
    live := { fullRob with rob := setEntry fullRob.rob 3 ⟨true, some add123, .executing, 0, some 1, false, 0⟩ } }

/-- Every station waits for slot 7. -/
def allWaiting : State :=
  { idle [] [] with
    live := { freshSnapshot (regs []) with rs := filled 5 ⟨true, .add, .tag 7, .tag 7, 2, 0, 0⟩ } }

theorem test_meets_InstructionCodesRoundTrip :
    (Instr.add 31 0 31 none).wf = true ∧ (Instr.beq 0 31 31 (some (-8192))).wf = true ∧
      (Instr.bne 0 0 0 (some 8191)).wf = true ∧ (Instr.loadProgram []).wf = true ∧
      encode (.beq 0 31 31 (some (-8192))) = some (.word 0xC0FFE000) := by decide
theorem test_meets_CanonicalWordsRoundTrip :
    encodeRecord ⟨.add, 31, 31, 31, some 3⟩ = some 0x1FFFC000 ∧ encodeRecord (beq00 8191) = some 0xC0001FFF ∧
      (⟨.add, 31, 31, 31, none⟩ : Record).canonical = true ∧ (beq00 8191).canonical = true := by decide
theorem test_meets_EdgeRunsTheDecodedInstruction :
    (sampledInput (flying 0)).rst = false ∧ (sampledInput (flying 0)).cmd = 1 ∧ fetchedRecord (flying 0) = some add123 ∧
      (sampledInput (idle [] [])).rst = false ∧ decodeTableWord 32 0 = some (.add 0 0 0 none) ∧
      decodeTableWord 8 7 = some .nop := by decide
theorem test_meets_PortCommands :
    (sampledInput { idle [] [] with inbox := [⟨true, 7, []⟩] }).rst = true ∧
      (sampledInput (idle [] [])).rst = false ∧ (sampledInput (idle [] [])).cmd.toNat = 0 ∧
      (∀ k ∈ [(5 : CmdCode), 7], (sampledInput { idle [] [] with inbox := [⟨false, k, []⟩] }).rst = false ∧
        5 ≤ (sampledInput { idle [] [] with inbox := [⟨false, k, []⟩] }).cmd.toNat) := by decide
theorem test_meets_StreamInstructionsIssue :
    (entry (beginCycle (idle [] [])).live.rob (beginCycle (idle [] [])).live.tail).busy = false ∧
      FirstFreeAdd (beginCycle (idle [] [])).live 0 ∧ FirstFreeMul (beginCycle (idle [] [])).live 3 ∧
      (entry (beginCycle (flying 2)).live.rob (beginCycle (flying 2)).live.tail).busy = false ∧
      FirstFreeAdd (beginCycle (flying 2)).live 1 ∧ FirstFreeMul (beginCycle (flying 2)).live 4 := by decide
theorem test_meets_StreamInstructionsWait :
    (∀ q : RsIx, 3 ≤ q.val → (entry (beginCycle (flying 3)).live.rs q).busy = true) ∧
      (entry (beginCycle blocked).live.rob (beginCycle blocked).live.tail).busy = true ∧
      ∀ q : RsIx, q.val < 3 → (entry (beginCycle allWaiting).live.rs q).busy = true := by decide
theorem test_meets_OperandResolution :
    entry (flying 1).live.rst 0 = none ∧ entry (flying 1).live.rst 1 = some 0 ∧
      freeStation (flying 1).live.rs (opClass .add) = some 1 ∧
      (entry (flying 1).live.rob (flying 1).live.tail).busy = false := by decide
theorem test_meets_ConsumersTagTheYoungestWriter :
    pipelineOk prog4 (flying 2).live = true ∧ renamingWriter (flying 2).live 4 1 = true ∧
      (∀ b, renamingWriter (flying 2).live 4 b = true → age (flying 2).live b ≤ age (flying 2).live 1) ∧
      (entry (flying 2).live.rob 1).state = .executing := by decide
/-- For the eight statements about one instruction alone. -/
theorem test_meets_Alone :
    Quiescent (idle [] []).live ∧ ([] : List Record).length ≤ (idle [] []).live.pc + 1 ∧
      Quiescent (idle [5] [add123]).live ∧ [add123].length ≤ (idle [5] [add123]).live.pc + 1 := by decide
/-- Both outcomes of a branch alone, with the smallest offset its index admits. -/
theorem test_meets_BranchAlone :
    Quiescent (idle [5, 5, 6] [beq00 0]).live ∧ (0 : Int) ≤ ((idle [5, 5, 6] [beq00 0]).live.pc : Int) + 1 + (-1) ∧
      entry (idle [5, 5, 6] [beq00 0]).live.rf 0 = entry (idle [5, 5, 6] [beq00 0]).live.rf 1 ∧
      entry (idle [5, 5, 6] [beq00 0]).live.rf 0 ≠ entry (idle [5, 5, 6] [beq00 0]).live.rf 2 := by decide
theorem test_meets_CommitInspectsHeadOnly :
    (entry (idle [] []).live.rob 0).busy = false ∧ (entry (flying 1).live.rob (flying 1).live.head).state ≠ .ready ∧
      commitStage cfg0 (committing add123 1 false 0).live ≠ (committing add123 1 false 0).live := by decide
theorem test_meets_CommitWritesTheDestination :
    (∀ i ∈ [add123, ⟨.sw, 1, 2, 3, none⟩],
      (entry (committing i 15 false 0).live.rob (committing i 15 false 0).live.head).busy = true ∧
      (entry (committing i 15 false 0).live.rob (committing i 15 false 0).live.head).state = .ready ∧
      (entry (committing i 15 false 0).live.rob (committing i 15 false 0).live.head).instr = some i ∧
      i.op ≠ .beq ∧ i.op ≠ .bne ∧
      (entry (committing i 15 false 0).live.rob (committing i 15 false 0).live.head).dest = some 1) ∧
    entry (committing add123 15 false 0).live.rst 1 = some (committing add123 15 false 0).live.head ∧
      entry (committing ⟨.sw, 1, 2, 3, none⟩ 15 false 0).live.rst 1 ≠
        some (committing ⟨.sw, 1, 2, 3, none⟩ 15 false 0).live.head := by decide
theorem test_meets_CommitRetiresUntakenBranch :
    (entry (committing (beq00 0) 0 false 1).live.rob (committing (beq00 0) 0 false 1).live.head) =
        ⟨true, some (beq00 0), .ready, 0, none, false, 1⟩ ∧ (beq00 0).op = .beq := by decide
theorem test_meets_CommitOfTakenBranchFlushes :
    (entry (committing (beq00 0) 0 true 1).live.rob (committing (beq00 0) 0 true 1).live.head) =
        ⟨true, some (beq00 0), .ready, 0, none, true, 1⟩ ∧ (beq00 0).op = .beq := by decide
theorem test_meets_WritebackBroadcastsEveryResult :
    DistinctDests crowded ∧ (entry crowded.rs 0).eligible = true ∧ (entry crowded.rs 2).busy = true ∧
      (entry crowded.rs 2).eligible = false ∧ (entry crowded.rs 2).j = .tag (entry crowded.rs 0).dest ∧
      (entry crowded.rs 3).busy = false ∧
      (∀ p, (entry crowded.rs p).eligible = true → (entry crowded.rs 2).k ≠ .tag (entry crowded.rs p).dest) ∧
      (∀ p, (entry crowded.rs p).eligible = true → (entry crowded.rs p).dest ≠ 2) := by decide
theorem test_meets_WritebackOrderIsIrrelevant :
    DistinctDests crowded ∧ [1, 0].Perm (eligibleStations crowded) ∧ eligibleStations crowded = [0, 1] := by decide
theorem test_meets_ForwardedOperandCountsDownInTheSameCycle :
    DistinctDests crowded ∧ (entry crowded.rs 0).eligible = true ∧ (entry crowded.rs 2).busy = true ∧
      (entry crowded.rs 2).j = .tag (entry crowded.rs 0).dest ∧ (entry crowded.rs 2).k = .val 7 ∧
      DistinctDests crowdedMul ∧ (entry crowdedMul.rs 1).eligible = true ∧ (entry crowdedMul.rs 3).busy = true ∧
      (entry crowdedMul.rs 3).j = .val 4 ∧ (entry crowdedMul.rs 3).k = .tag (entry crowdedMul.rs 1).dest ∧
      (entry crowdedMul.rs 4).busy = true ∧ (entry crowdedMul.rs 4).j = .tag (entry crowdedMul.rs 1).dest ∧
      (entry crowdedMul.rs 4).k = .tag (entry crowdedMul.rs 1).dest ∧
      DistinctDests crowdedTwo ∧ (entry crowdedTwo.rs 0).eligible = true ∧ (entry crowdedTwo.rs 1).eligible = true ∧
      (entry crowdedTwo.rs 4).j = .tag (entry crowdedTwo.rs 0).dest ∧
      (entry crowdedTwo.rs 4).k = .tag (entry crowdedTwo.rs 1).dest := by decide
theorem test_meets_StationResults : (0 : Int) ≤ ((0 : Nat) : Int) + 1 + (-1) ∧ (0 : Int) ≤ ((8191 : Nat) : Int) + 1 + (-8192) := by
  decide
theorem test_meets_ExecuteCountsDown :
    (entry crowded.rs 0).busy = true ∧ (entry crowded.rs 0).j = .val 1 ∧ (entry crowded.rs 0).k = .val 2 ∧
      (entry crowded.rs 2).resolved = false := by decide
theorem test_meets_WrapReducesToTheValueRange :
    (0 : Nat) < 1 ∧ -(2 ^ (1 - 1) : Int) ≤ 0 ∧ (0 : Int) < 2 ^ (1 - 1) ∧
      -(2 ^ (32 - 1) : Int) ≤ -2147483648 ∧ (-2147483648 : Int) < 2 ^ (32 - 1) := by decide
theorem test_meets_QuotientRounding :
    (2 : Int) ∣ -8 ∧ (0 : Int) ≤ -7 * -2 ∧ ¬(2 : Int) ∣ -7 ∧ (-7 : Int) * 2 < 0 ∧ (0 : Nat) < 32 ∧
      inVal (.bits 32) (-2147483648) = true ∧ inVal (.bits 32) (-1) = true ∧ inVal (.bits 1) (-1) = true := by decide
theorem test_meets_StepBackPopsTheHistory :
    (flying 1).hist = [freshSnapshot (regs [0, 0, 5, 10])] ∧ (idle [] []).hist = [] ∧
      (idle [] []).cfg.histDepth ≠ some 0 := ⟨rfl, rfl, by decide⟩
theorem test_meets_UndoReturnsToTheStart :
    (idle [] []).cfg.histDepth = none ∧ ({ cfg0 with histDepth := some 2 } : Config).histDepth = some 2 ∧ 2 ≤ 2 := by decide
theorem test_meets_LoadInstallsWellFormedStreams :
    WfProgram [⟨.add, 31, 0, 31, some 7⟩, ⟨.bne, 0, 1, 2, some (-2)⟩] ∧ WfProgram [] := by decide
theorem test_meets_LoadRefusesMalformedStreams :
    ¬WfProgram [⟨.add, 1, 2, 3, none⟩, ⟨.add, 1, 2, 32, none⟩] ∧ ¬WfProgram [⟨.beq, 0, 0, 0, none⟩] ∧
      ¬WfProgram [⟨.beq, 0, 0, 0, some (-2)⟩] := by decide
theorem test_meets_MetricsReportTheCounters : (idle [] []).live.cycle = 0 ∧ 0 < (flying 1).live.cycle := by decide
theorem test_meets_CompleteMeansDrained :
    FifoInv (idle [] []).live ∧ isComplete (idle [] []) = true ∧ FifoInv (flying 2).live ∧ isComplete (flying 2) = false := by
  decide
theorem test_meets_IdleStepOnlyCountsACycle :
    Quiescent (idle [] []).live ∧ (idle [] []).prog.length ≤ (idle [] []).live.pc := by decide
theorem test_meets_EveryEdgeKeepsThePipelineInvariant : EngineInv (flying 3) ∧ ∃ t, step (flying 3) = .next t :=
  ⟨by decide, _, rfl⟩
theorem test_meets_EveryEdgeKeepsTheBookkeeping : BookkeepingInv (flying 3) ∧ ∃ t, step (flying 3) = .next t :=
  ⟨by decide, _, rfl⟩
theorem test_meets_EveryEdgeKeepsCommitOrder :
    EngineInv (flying 3) ∧ CommitOrderInv (flying 3) ∧ ∃ t, step (flying 3) = .next t := ⟨by decide, by decide, _, rfl⟩
theorem test_meets_EveryEdgeKeepsTheHistoryInvariant :
    HistoryInv (flying 3) = true ∧ (flying 3).cfg.histDepth = none ∧ ∃ t, step (flying 3) = .next t :=
  ⟨by decide, rfl, _, rfl⟩
theorem test_meets_EveryEdgeKeepsValuesInRange : ValuesInv (flying 3) ∧ ∃ t, step (flying 3) = .next t :=
  ⟨by decide, _, rfl⟩
theorem test_meets_StepKeepsTagsLiveWithoutStaleEvent :
    EngineInv (flying 2) ∧ TagInv (flying 2).live ∧ staleTagEvent (flying 2) = false ∧
      ∃ t, exec .step (flying 2) = .next t := ⟨by decide, by decide, by decide, _, rfl⟩
theorem test_meets_StaleEventLeavesADeadTag :
    EngineInv (flying 3) ∧ staleTagEvent (flying 3) = true ∧ ∃ t, exec .step (flying 3) = .next t :=
  ⟨by decide, by decide, _, rfl⟩
theorem test_meets_BranchTargetsAreNatural :
    let s := runCycle (idle [] [beq00 (-1)])
    EngineInv s ∧ s.live ∈ s.live :: s.hist ∧ (entry s.live.rs 0).busy = true ∧
      (entry s.live.rs 0).op.isBranch = true := ⟨by decide, .head _, by decide, by decide⟩
theorem test_meets_HeadMeetsTailWhenEmptyOrFull :
    FifoInv fullRob ∧ fullRob.head = fullRob.tail ∧ occupancy fullRob = 8 ∧ FifoInv (idle [] []).live := by decide
theorem test_meets_RegistersChangeAtCommitOnly :
    ∃ t, exec .step (committing add123 15 false 0) = .next t ∧
      entry t.live.rf 1 ≠ entry (committing add123 15 false 0).live.rf 1 := ⟨_, rfl, by decide⟩
theorem test_meets_PcMovesByIssueOrFlushOnly :
    (∃ t, exec .step (flying 0) = .next t ∧ t.live.pc = 1) ∧
      ∃ t, exec .step (committing (beq00 6) 0 true 7) = .next t ∧ t.live.pc = 7 :=
  ⟨⟨_, rfl, by decide⟩, _, rfl, by decide⟩
theorem test_meets_StreamChangesOnlyWhenReplacedWhole :
    (∃ t, step { idle [] [add123] with inbox := [⟨true, 0, []⟩] } = .next t ∧ t.prog ≠ [add123]) ∧
      ∃ t, step { idle [] [add123] with inbox := [⟨false, 4, []⟩] } = .next t ∧ t.prog ≠ [add123] :=
  ⟨⟨_, rfl, by decide⟩, _, rfl, by decide⟩
theorem test_meets_ReadyHeadCommitsNextStep :
    let s := committing add123 15 false 0
    SlotInv s.live ∧ (entry s.live.rob s.live.head).busy = true ∧ (entry s.live.rob s.live.head).state = .ready := by decide
theorem test_meets_HazardFreeRunsAreSequential :
    WfProgram [⟨.bne, 0, 0, 0, some 5⟩] ∧
      ∃ s0, exec (.loadProgram [⟨.bne, 0, 0, 0, some 5⟩]) (idle [] []) = .next s0 ∧ hazardFree 4 s0 = true ∧
        isComplete (runSteps 4 s0) = true := ⟨by decide, _, rfl, by decide, by decide⟩
theorem test_meets_AccessorsShowAllButTheHistory :
    let s := flying 2
    let t := { flying 2 with hist := [] }
    (∀ r, readRs s r = readRs t r) ∧ (∀ b, readRob s b = readRob t b) ∧ (∀ d, readRf s d = readRf t d) ∧
      (∀ d, readRst s d = readRst t d) ∧ readLog s = readLog t ∧ readPc s = readPc t ∧ readHead s = readHead t ∧
      readTail s = readTail t ∧ readProg s = readProg t ∧ getMetrics s = getMetrics t ∧ s.hist ≠ t.hist :=
  ⟨fun _ => rfl, fun _ => rfl, fun _ => rfl, fun _ => rfl, rfl, rfl, rfl, rfl, rfl, rfl, by decide⟩
theorem test_meets_FieldsFitTheirWidths :
    LegalConfig cfg0 ∧ pipelineOk prog4 (flying 3).live = true ∧ ValuesInRange cfg0.xlen (flying 3).live ∧
      (fieldWidths cfg0).val = some 32 := by decide

end Sys2Proof.Tests
end

section
/-! PROOF. The value range and `wrap` of 00_scope R12: membership in `Val` as inequalities, `wrap` reduces into `Val`, it keeps
the residue modulo `2^XLEN`, and it fixes `Val`. -/

namespace Sys2Proof.Machine

/-! ### inVal -/

@[simp] theorem inVal_bits_iff (n : Nat) (v : Int) :
    inVal (.bits n) v = true ↔ -(2 ^ (n - 1) : Int) ≤ v ∧ v < 2 ^ (n - 1) := by
  simp [inVal]

@[simp] theorem inVal_unbounded (v : Int) : inVal .unbounded v = true := rfl

/-! ### wrap -/

theorem wrap_bits (n : Nat) (v : Int) : wrap (.bits n) v = (v + 2 ^ (n - 1)) % 2 ^ n - 2 ^ (n - 1) := rfl

@[simp] theorem wrap_unbounded (v : Int) : wrap .unbounded v = v := rfl

theorem two_pow_dvd_wrap_sub (n : Nat) (v : Int) : (2 ^ n : Int) ∣ wrap (.bits n) v - v := by
  have hshift : wrap (.bits n) v - v = (v + 2 ^ (n - 1)) % 2 ^ n - (v + 2 ^ (n - 1)) := by
    rw [wrap_bits]; ring
  rw [hshift]
  exact (Int.mod_modEq (v + 2 ^ (n - 1)) (2 ^ n)).symm.dvd

theorem inVal_wrap (x : XLen) (v : Int) : inVal x (wrap x v) = true := by
  cases x with
  | unbounded => rfl
  | bits n =>
    have hwindow : (2 : Int) ^ n ≤ 2 * 2 ^ (n - 1) := by
      rw [← pow_succ']
      exact pow_le_pow_right₀ one_le_two (by omega)
    have hpos : (0 : Int) < 2 ^ n := by positivity
    have hlow := Int.emod_nonneg (v + 2 ^ (n - 1)) hpos.ne'
    have hhigh := Int.emod_lt_of_pos (v + 2 ^ (n - 1)) hpos
    rw [inVal_bits_iff, wrap_bits]
    omega

/-- Width 0 is left out: `inVal` then admits both -1 and 0, and `wrap` takes every integer to -1. -/
theorem wrap_of_inVal {x : XLen} (hx : x ≠ .bits 0) {v : Int} (hv : inVal x v = true) : wrap x v = v := by
  cases x with
  | unbounded => rfl
  | bits n =>
    have hn : n ≠ 0 := fun h => hx (h ▸ rfl)
    have hwindow : (2 : Int) * 2 ^ (n - 1) = 2 ^ n := mul_pow_sub_one hn 2
    obtain ⟨hlow, hhigh⟩ := (inVal_bits_iff n v).mp hv
    have hmod : (v + 2 ^ (n - 1)) % 2 ^ n = v + 2 ^ (n - 1) := Int.emod_eq_of_lt (by omega) (by omega)
    rw [wrap_bits, hmod, add_sub_cancel_right]

/-- Settles O31: range, congruence and identity are each a law of `wrap` above. -/
theorem wrapReducesToTheValueRange : Obligations.WrapReducesToTheValueRange := by
  refine ⟨fun n v _ => inVal_bits_iff n v, fun n v hn => ?_, fun v => ⟨inVal_unbounded v, wrap_unbounded v⟩⟩
  have hx : XLen.bits n ≠ .bits 0 := fun h => hn.ne' (XLen.bits.inj h)
  obtain ⟨hlow, hhigh⟩ := (inVal_bits_iff n _).mp (inVal_wrap (.bits n) v)
  exact ⟨hlow, hhigh, two_pow_dvd_wrap_sub n v,
    fun hvlow hvhigh => wrap_of_inVal hx ((inVal_bits_iff n v).mpr ⟨hvlow, hvhigh⟩)⟩

end Sys2Proof.Machine
end

section
/-! PROOF. The packed word of 30_encoding R96 as five fields: which digits of the word each field is, what decoding and encoding
do to the fields, and the round trips of R99 and R100. -/

namespace Sys2Proof

/-! ### Operation codes (30_encoding R97) -/

@[simp] theorem opOfCode_codeOfOp (op : Op) : opOfCode (codeOfOp op) = op := by cases op <;> rfl

@[simp] theorem codeOfOp_opOfCode (c : BitVec 3) : codeOfOp (opOfCode c) = c := by decide +revert

theorem getElem?_opOfCode (c : BitVec 3) :
    [Op.add, .sub, .mul, .div, .lw, .sw, .beq, .bne][c.toNat]? = some (opOfCode c) := by decide +revert

theorem isBranch_opOfCode (c : BitVec 3) : (opOfCode c).isBranch = true ↔ 6 ≤ c.toNat := by decide +revert

/-! ### Register and offset fields -/

@[simp] theorem regOfBits_bitsOfReg (r : RegIx) : regOfBits (bitsOfReg r) = r :=
  Fin.ext (Nat.mod_eq_of_lt r.isLt)

@[simp] theorem bitsOfReg_regOfBits (b : BitVec 5) : bitsOfReg (regOfBits b) = b := by
  simp [bitsOfReg, regOfBits]

@[simp] theorem offFits_iff (o : Int) : offFits o = true ↔ -8192 ≤ o ∧ o ≤ 8191 := by simp [offFits]

theorem offFits_toInt (b : BitVec 14) : offFits b.toInt = true := by
  have hlow := b.le_toInt
  have hhigh := b.toInt_lt
  rw [offFits_iff]
  omega

theorem toInt_ofInt_of_offFits {o : Int} (h : offFits o = true) : (BitVec.ofInt 14 o).toInt = o := by
  obtain ⟨hlow, hhigh⟩ := (offFits_iff o).mp h
  exact BitVec.toInt_ofInt_eq_self (by decide) (by omega) (by omega)

/-! ### The fields of a word -/

theorem opcodeField_toNat (w : StreamWord) : (w.extractLsb' 29 3).toNat = w.toNat / 2 ^ 29 := by
  have := w.isLt
  rw [extract_toNat]
  omega

theorem offField_toNat (w : StreamWord) : (w.extractLsb' 0 14).toNat = w.toNat % 2 ^ 14 := by
  rw [extract_toNat, pow_zero, Nat.div_one]

theorem rdDigit_eq_zero_iff (w : StreamWord) : w.toNat / 2 ^ 24 % 32 = 0 ↔ w.extractLsb' 24 5 = 0 := by
  rw [← BitVec.toNat_inj, extract_toNat]
  rfl

theorem offDigit_eq_zero_iff (w : StreamWord) : w.toNat % 2 ^ 14 = 0 ↔ w.extractLsb' 0 14 = 0 := by
  rw [← BitVec.toNat_inj, offField_toNat]
  rfl

section Fields
variable (op : Op) (rd rs1 rs2 : BitVec 5) (off14 : BitVec 14)

@[simp] theorem packWord_opcodeField : (packWord op rd rs1 rs2 off14).extractLsb' 29 3 = codeOfOp op :=
  BitVec.eq_of_toNat_eq (by rw [opcodeField_toNat, Laws.RowCode.packWord_opcode])

@[simp] theorem packWord_rdField : (packWord op rd rs1 rs2 off14).extractLsb' 24 5 = rd := by
  apply BitVec.eq_of_toNat_eq
  rw [extract_toNat, packWord_toNat]
  omega

@[simp] theorem packWord_rs1Field : (packWord op rd rs1 rs2 off14).extractLsb' 19 5 = rs1 := by
  apply BitVec.eq_of_toNat_eq
  rw [extract_toNat, packWord_toNat]
  omega

@[simp] theorem packWord_rs2Field : (packWord op rd rs1 rs2 off14).extractLsb' 14 5 = rs2 := by
  apply BitVec.eq_of_toNat_eq
  rw [extract_toNat, packWord_toNat]
  omega

@[simp] theorem packWord_offField : (packWord op rd rs1 rs2 off14).extractLsb' 0 14 = off14 := by
  apply BitVec.eq_of_toNat_eq
  rw [extract_toNat, packWord_toNat]
  omega

theorem decodeWord_packWord :
    decodeWord (packWord op rd rs1 rs2 off14) =
      ⟨op, regOfBits rd, regOfBits rs1, regOfBits rs2, if op.isBranch then some off14.toInt else none⟩ := by
  simp [decodeWord]

theorem packWord_rd_inj (rd' : BitVec 5) :
    packWord op rd rs1 rs2 off14 = packWord op rd' rs1 rs2 off14 ↔ rd = rd' :=
  ⟨fun h => by simpa using congrArg (BitVec.extractLsb' 24 5) h, fun h => h ▸ rfl⟩

theorem packWord_off_inj (off14' : BitVec 14) :
    packWord op rd rs1 rs2 off14 = packWord op rd rs1 rs2 off14' ↔ off14 = off14' :=
  ⟨fun h => by simpa using congrArg (BitVec.extractLsb' 0 14) h, fun h => h ▸ rfl⟩

end Fields

/-- Every word is the packing of its own fields. -/
theorem packWord_fields (w : StreamWord) :
    packWord (opOfCode (w.extractLsb' 29 3)) (w.extractLsb' 24 5) (w.extractLsb' 19 5) (w.extractLsb' 14 5)
      (w.extractLsb' 0 14) = w := by
  apply BitVec.eq_of_toNat_eq
  rw [packWord_toNat, codeOfOp_opOfCode]
  simp only [extract_toNat]
  omega

theorem exists_packWord (w : StreamWord) : ∃ op rd rs1 rs2 off14, w = packWord op rd rs1 rs2 off14 :=
  ⟨_, _, _, _, _, (packWord_fields w).symm⟩

theorem isBranch_decodeWord (w : StreamWord) : (decodeWord w).op.isBranch = true ↔ 6 ≤ w.toNat / 2 ^ 29 := by
  rw [← opcodeField_toNat]
  exact isBranch_opOfCode _

/-! ### What encoding writes (30_encoding R98, R100) -/

theorem encodeRecord_branch {r : Record} (hb : r.op.isBranch = true) {o : Int} (ho : r.off = some o)
    (hfits : offFits o = true) :
    encodeRecord r = some (packWord r.op 0 (bitsOfReg r.rs1) (bitsOfReg r.rs2) (BitVec.ofInt 14 o)) := by
  simp only [encodeRecord, hb, ho, hfits, if_true]

theorem encodeRecord_not_branch {r : Record} (hb : r.op.isBranch = false) :
    encodeRecord r = some (packWord r.op (bitsOfReg r.rd) (bitsOfReg r.rs1) (bitsOfReg r.rs2) 0) := by
  simp [encodeRecord, hb]

/-- The two forms a packed word can have; a branch has one only where its offset is there and fits (R98). -/
theorem encodeRecord_cases {r : Record} {w : StreamWord} (h : encodeRecord r = some w) :
    (r.op.isBranch = true ∧ ∃ o, r.off = some o ∧ offFits o = true ∧
      w = packWord r.op 0 (bitsOfReg r.rs1) (bitsOfReg r.rs2) (BitVec.ofInt 14 o)) ∨
    (r.op.isBranch = false ∧ w = packWord r.op (bitsOfReg r.rd) (bitsOfReg r.rs1) (bitsOfReg r.rs2) 0) := by
  unfold encodeRecord at h
  split at h
  next hb =>
    split at h
    · cases h
    next o ho =>
      split at h
      next hfits => exact .inl ⟨hb, o, ho, hfits, (Option.some.inj h).symm⟩
      · cases h
  next hb => exact .inr ⟨by simpa using hb, (Option.some.inj h).symm⟩

theorem canonical_branch_iff {r : Record} (hb : r.op.isBranch = true) :
    r.canonical = true ↔ r.rd = 0 ∧ ∃ o, r.off = some o ∧ offFits o = true := by
  cases hoff : r.off <;> simp [Record.canonical, hb, hoff]

theorem canonical_not_branch_iff {r : Record} (hb : r.op.isBranch = false) :
    r.canonical = true ↔ r.off = none := by
  simp [Record.canonical, hb]

/-! ### Round trips -/

theorem encodeRecord_ignored_zero {r : Record} {w : StreamWord} (h : encodeRecord r = some w) :
    (r.op.isBranch = true → w.toNat / 2 ^ 24 % 32 = 0) ∧ (r.op.isBranch = false → w.toNat % 2 ^ 14 = 0) := by
  rcases encodeRecord_cases h with ⟨hb, o, -, -, rfl⟩ | ⟨hb, rfl⟩
  · exact ⟨fun _ => (rdDigit_eq_zero_iff _).mpr (packWord_rdField ..), by simp [hb]⟩
  · exact ⟨by simp [hb], fun _ => (offDigit_eq_zero_iff _).mpr (packWord_offField ..)⟩

theorem decodeWord_encodeRecord {r : Record} (h : r.canonical = true) :
    ∃ w, encodeRecord r = some w ∧ decodeWord w = r := by
  cases hb : r.op.isBranch with
  | true =>
    obtain ⟨hrd, o, ho, hfits⟩ := (canonical_branch_iff hb).mp h
    refine ⟨_, encodeRecord_branch hb ho hfits, ?_⟩
    have hzero : regOfBits 0 = r.rd := hrd.symm
    rw [decodeWord_packWord, regOfBits_bitsOfReg, regOfBits_bitsOfReg, hzero, toInt_ofInt_of_offFits hfits, if_pos hb, ← ho]
  | false =>
    have hoff := (canonical_not_branch_iff hb).mp h
    refine ⟨_, encodeRecord_not_branch hb, ?_⟩
    simp [decodeWord_packWord, hb, ← hoff]

theorem encodeRecord_decodeWord_of_branch {w : StreamWord} (hb : (decodeWord w).op.isBranch = true) :
    encodeRecord (decodeWord w) = some w ↔ w.toNat / 2 ^ 24 % 32 = 0 := by
  obtain ⟨op, rd, rs1, rs2, off14, rfl⟩ := exists_packWord w
  rw [decodeWord_packWord] at hb ⊢
  rw [encodeRecord_branch hb (if_pos hb) (offFits_toInt off14), bitsOfReg_regOfBits, bitsOfReg_regOfBits,
    BitVec.ofInt_toInt, Option.some_inj, packWord_rd_inj, rdDigit_eq_zero_iff, packWord_rdField, eq_comm]

theorem encodeRecord_decodeWord_of_not_branch {w : StreamWord} (hb : (decodeWord w).op.isBranch = false) :
    encodeRecord (decodeWord w) = some w ↔ w.toNat % 2 ^ 14 = 0 := by
  obtain ⟨op, rd, rs1, rs2, off14, rfl⟩ := exists_packWord w
  rw [decodeWord_packWord] at hb ⊢
  rw [encodeRecord_not_branch hb, bitsOfReg_regOfBits, bitsOfReg_regOfBits, bitsOfReg_regOfBits, Option.some_inj,
    packWord_off_inj, offDigit_eq_zero_iff, packWord_offField, eq_comm]

/-- Settles O2: what encoding writes, then each round trip, the second by whether the word's operation is a branch. -/
theorem canonicalWordsRoundTrip : Obligations.CanonicalWordsRoundTrip := by
  refine ⟨fun _ _ => encodeRecord_ignored_zero, fun _ => decodeWord_encodeRecord, fun w => ?_⟩
  by_cases hb : (decodeWord w).op.isBranch = true
  · rw [if_pos ((isBranch_decodeWord w).mp hb)]
    exact encodeRecord_decodeWord_of_branch hb
  · rw [if_neg (mt (isBranch_decodeWord w).mpr hb)]
    exact encodeRecord_decodeWord_of_not_branch (Bool.eq_false_iff.mpr hb)

/-! ### Decoding by digits (30_encoding R99) -/

theorem decodeWord_op (w : StreamWord) :
    [Op.add, .sub, .mul, .div, .lw, .sw, .beq, .bne][w.toNat / 2 ^ 29]? = some (decodeWord w).op := by
  rw [← opcodeField_toNat]
  exact getElem?_opOfCode _

theorem offField_toInt (w : StreamWord) :
    (w.extractLsb' 0 14).toInt =
      if w.toNat % 2 ^ 14 < 8192 then ((w.toNat % 2 ^ 14 : Nat) : Int) else ((w.toNat % 2 ^ 14 : Nat) : Int) - 16384 := by
  rw [BitVec.toInt_eq_toNat_cond, offField_toNat]
  split <;> split <;> omega

theorem decodeWord_off (w : StreamWord) :
    (decodeWord w).off = if 6 ≤ w.toNat / 2 ^ 29 then some (w.extractLsb' 0 14).toInt else none :=
  if_congr (isBranch_decodeWord w) rfl rfl

/-- Settles O3: the operation by its place in the list, each register field as a digit, the offset field sign extended. -/
theorem decodingReadsEveryField : Obligations.DecodingReadsEveryField := fun w =>
  ⟨decodeWord_op w, extract_toNat w 24 5, extract_toNat w 19 5, extract_toNat w 14 5,
    by rw [decodeWord_off, offField_toInt]⟩

end Sys2Proof
end

section
/-! PROOF. The Commit stage (40_engine_cycle R122 to R126): what it does in each case of the slot at `head`, and what the
register write of a committing instruction changes. -/

namespace Sys2Proof.Machine

/-! ### Operations and indices -/

theorem isBranch_iff (op : Op) : op.isBranch = true ↔ op = .beq ∨ op = .bne := by cases op <;> simp [Op.isBranch]

theorem isBranch_eq_false_iff (op : Op) : op.isBranch = false ↔ op ≠ .beq ∧ op ≠ .bne := by
  rw [← Bool.not_eq_true, isBranch_iff, not_or]

theorem isStore_iff (op : Op) : op.isStore = true ↔ op = .sw := by cases op <;> simp [Op.isStore]

/-- The ROB is circular (10_state R37): advancing an index is modulo 8. -/
theorem robIx_val_succ (b : RobIx) : (b + 1).val = (b.val + 1) % 8 := Fin.val_add b 1

/-! ### The register write of Commit -/

/-- A committing instruction with destination `d` writes it (40_engine_cycle R123), unless it is a store and
`STORE_COMMIT_WRITES_RD` is false (42_loadstore R191). -/
theorem commitWrite_eq (c : Config) (m : Snapshot) (e : RobEntry) (i : Record) {d : RegIx} (hd : e.dest = some d) :
    commitWrite c m e i =
      { m with
        rf := if i.op ≠ .sw ∨ c.storeCommitWritesRd = true then setEntry m.rf d (wrap c.xlen e.value) else m.rf
        rst :=
          if (i.op ≠ .sw ∨ c.storeCommitWritesRd = true) ∧ entry m.rst d = some m.head then setEntry m.rst d none
          else m.rst } := by
  rcases commitWrite_cases c m e i with ⟨hskip | hnone, heq⟩ | ⟨hwrites, d', hd', heq⟩
  · obtain ⟨hstore, hparam⟩ := hskip
    simp [heq, (isStore_iff _).mp hstore, hparam]
  · cases hnone.symm.trans hd
  · obtain rfl : d = d' := Option.some.inj (hd.symm.trans hd')
    rw [isStore_iff, not_and_or, Bool.not_eq_false] at hwrites
    simp [heq, clearRename_eq, hwrites, writeReg]

theorem commitWrite_frame (c : Config) (m : Snapshot) (e : RobEntry) (i : Record) :
    commitWrite c m e i = { m with rf := (commitWrite c m e i).rf, rst := (commitWrite c m e i).rst } := by
  rcases commitWrite_cases c m e i with ⟨-, heq⟩ | ⟨-, d, -, heq⟩
  · simp [heq]
  · simp [heq, clearRename_eq, writeReg]

section Fields
variable (c : Config) (m : Snapshot) (e : RobEntry) (i : Record)

@[simp] theorem commitWrite_cycle : (commitWrite c m e i).cycle = m.cycle := by rw [commitWrite_frame]
@[simp] theorem commitWrite_head : (commitWrite c m e i).head = m.head := by rw [commitWrite_frame]
@[simp] theorem commitWrite_committed : (commitWrite c m e i).committed = m.committed := by rw [commitWrite_frame]
@[simp] theorem commitWrite_log : (commitWrite c m e i).log = m.log := by rw [commitWrite_frame]

end Fields

/-! ### The stage, case by case -/

theorem commitStage_idle (c : Config) {m : Snapshot}
    (h : (entry m.rob m.head).busy = false ∨ (entry m.rob m.head).state ≠ .ready) : commitStage c m = m := by
  rcases h with hbusy | hready
  · simp [commitStage, hbusy]
  · simp [commitStage, hready]

section ReadyHead
variable (c : Config) {m : Snapshot} {i : Record}
  (hbusy : (entry m.rob m.head).busy = true) (hready : (entry m.rob m.head).state = .ready)
  (hinstr : (entry m.rob m.head).instr = some i)
include hbusy hready hinstr

theorem commitStage_of_not_branch (hop : i.op.isBranch = false) :
    commitStage c m = retireHead (commitWrite c m (entry m.rob m.head) i) (entry m.rob m.head) i := by
  simp [commitStage, hbusy, hready, hinstr, hop]

theorem commitStage_of_untaken (hop : i.op.isBranch = true) (hsb : (entry m.rob m.head).shouldBranch = false) :
    commitStage c m = retireHead m (entry m.rob m.head) i := by
  simp [commitStage, hbusy, hready, hinstr, hop, hsb]

theorem commitStage_of_taken (hop : i.op.isBranch = true) (hsb : (entry m.rob m.head).shouldBranch = true) :
    commitStage c m = commitMispredicted m (entry m.rob m.head) i := by
  simp [commitStage, hbusy, hready, hinstr, hop, hsb]

end ReadyHead

@[simp] theorem commitStage_cycle (c : Config) (m : Snapshot) : (commitStage c m).cycle = m.cycle := by
  rcases commitStage_cases c m with ⟨-, h⟩ | ⟨-, -, i, -, ⟨-, h⟩ | ⟨-, -, h⟩ | ⟨-, -, h⟩⟩ <;> simp [h]

theorem commitStage_commits_at_most_one (c : Config) (m : Snapshot) :
    commitStage c m = m ∨
      ((commitStage c m).committed = m.committed + 1 ∧
        ∃ i v flushed, (commitStage c m).log = m.log ++ [.commit m.head i v flushed]) := by
  rcases commitStage_cases c m with ⟨-, h⟩ | ⟨-, -, i, -, ⟨-, h⟩ | ⟨-, -, h⟩ | ⟨-, -, h⟩⟩
  · exact .inl h
  · exact .inr ⟨by simp [h], i, (entry m.rob m.head).value, false, by simp [h]⟩
  · exact .inr ⟨by simp [h], i, (entry m.rob m.head).value, false, by simp [h]⟩
  · exact .inr ⟨by simp [h], i, 0, true, by simp [h]⟩

/-- Settles O22: the idle cases of the slot at `head`, then every case of the stage. -/
theorem commitInspectsHeadOnly : Obligations.CommitInspectsHeadOnly := fun c m =>
  ⟨commitStage_idle c, commitStage_commits_at_most_one c m⟩

/-- Settles O23: the stage is the register write followed by the retirement, whose fields are read off. -/
theorem commitWritesTheDestination : Obligations.CommitWritesTheDestination := by
  intro c m i d hbusy hready hinstr hbeq hbne hdest e writes n
  have hn : n = retireHead (commitWrite c m e i) e i :=
    commitStage_of_not_branch c hbusy hready hinstr ((isBranch_eq_false_iff _).mpr ⟨hbeq, hbne⟩)
  have hw := commitWrite_eq c m e i hdest
  have hrf : n.rf = if writes then setEntry m.rf d (wrap c.xlen e.value) else m.rf := by rw [hn, hw]; rfl
  have hrst : n.rst = if writes ∧ entry m.rst d = some m.head then setEntry m.rst d none else m.rst := by
    rw [hn, hw]; rfl
  refine ⟨?_, ?_, ?_, ?_, ?_⟩
  · rintro x hwrites rfl
    rw [hrf, if_pos hwrites, entry_setEntry_same]
  · rintro x (hx | hskip)
    · rw [hrf]
      split
      · exact entry_setEntry_ne _ _ hx
      · rfl
    · rw [hrf, if_neg hskip]
  · intro hwrites hown
    rw [hrst, if_pos ⟨hwrites, hown⟩, entry_setEntry_same]
  · rintro x (hx | hkeep)
    · rw [hrst]
      split
      · exact entry_setEntry_ne _ _ hx
      · rfl
    · rw [hrst, if_neg (not_and_or.mpr hkeep)]
  · rw [hn, hw]
    exact ⟨fun b => entry_setEntry _ _ b _, robIx_val_succ _, rfl, rfl, rfl, rfl, rfl, rfl, rfl, rfl⟩

/-- Settles O24: the stage is the retirement alone. -/
theorem commitRetiresUntakenBranch : Obligations.CommitRetiresUntakenBranch := by
  intro c m i hbusy hready hinstr hop hsb n
  have hn : n = retireHead m (entry m.rob m.head) i :=
    commitStage_of_untaken c hbusy hready hinstr ((isBranch_iff _).mpr hop) hsb
  rw [hn]
  exact ⟨fun b => entry_setEntry _ _ b _, robIx_val_succ _, rfl, rfl, rfl, rfl, rfl, rfl, rfl, rfl, rfl, rfl⟩

/-- Settles O25: the stage is the flush with its bookkeeping; the flushed tables hold one entry throughout. -/
theorem commitOfTakenBranchFlushes : Obligations.CommitOfTakenBranchFlushes := by
  intro c m i hbusy hready hinstr hop hsb n
  have hn : n = commitMispredicted m (entry m.rob m.head) i :=
    commitStage_of_taken c hbusy hready hinstr ((isBranch_iff _).mpr hop) hsb
  rw [hn]
  exact ⟨entry_filled _, entry_filled _, entry_filled _, rfl, rfl, rfl, rfl, rfl, rfl, rfl, rfl, rfl⟩

end Sys2Proof.Machine
end

section
/-! PROOF. The stations (40_engine_cycle R127): when one is resolved and eligible, what Execute (R133) and Issue (R134 to R141)
do with one, and the order of the stages in a step (R120). -/

namespace Sys2Proof.Machine

/-! ### Resolved and eligible stations -/

theorem Operand.resolved_iff (o : Operand) : o.resolved = true ↔ ∃ v, o = .val v := by
  cases o <;> simp [Operand.resolved]

theorem RsEntry.resolved_iff (e : RsEntry) : e.resolved = true ↔ (∃ a, e.j = .val a) ∧ ∃ b, e.k = .val b := by
  rw [RsEntry.resolved, Bool.and_eq_true, Operand.resolved_iff, Operand.resolved_iff]

theorem RsEntry.eligible_iff (e : RsEntry) :
    e.eligible = true ↔ e.busy = true ∧ e.lat = 0 ∧ (∃ a, e.j = .val a) ∧ ∃ b, e.k = .val b := by
  rw [RsEntry.eligible, Bool.and_eq_true, Bool.and_eq_true, RsEntry.resolved_iff, beq_iff_eq, and_assoc]

/-! ### Execute -/

theorem RsEntry.tick_of_resolved {e : RsEntry} (hbusy : e.busy = true) (hres : e.resolved = true) :
    e.tick = { e with lat := e.lat - 1 } := by
  simp [RsEntry.tick, hbusy, hres]

theorem RsEntry.tick_of_not_resolved {e : RsEntry} (h : ¬(e.busy = true ∧ e.resolved = true)) : e.tick = e :=
  if_neg (by rwa [Bool.and_eq_true])

theorem entry_executeStage (m : Snapshot) (r : RsIx) : entry (executeStage m).rs r = (entry m.rs r).tick := by
  rw [executeStage_rs, entry_tabulate]

/-- Settles O30: each station ticks on its own, by whether it is busy and resolved. -/
theorem executeCountsDown : Obligations.ExecuteCountsDown := by
  refine fun m => ⟨rfl, fun r => ?_⟩
  rw [entry_executeStage, ← RsEntry.resolved_iff]
  refine ⟨fun ⟨hbusy, hres⟩ => ?_, RsEntry.tick_of_not_resolved⟩
  rw [RsEntry.tick_of_resolved hbusy hres, Nat.max_zero]

/-! ### Issue -/

theorem readOperand_of_free (c : Config) {m : Snapshot} {d : RegIx} (h : entry m.rst d = none) :
    readOperand c m d = .val (entry m.rf d) := by
  simp [readOperand, h]

theorem readOperand_of_pending (c : Config) {m : Snapshot} {d : RegIx} {q : RobIx} (h : entry m.rst d = some q) :
    readOperand c m d =
      if c.issueReadsReadyRob = true ∧ (entry m.rob q).state = .ready then .val (entry m.rob q).value else .tag q := by
  simp [readOperand, h]

theorem offer_of_free (c : Config) {m : Snapshot} {i : Record} {r : RsIx}
    (hstation : freeStation m.rs (opClass i.op) = some r) (hslot : (entry m.rob m.tail).busy = false) :
    offer c m i = dispatch c m i r := by
  simp [offer, hstation, hslot]

/-- Settles O11: the three answers, then the station a dispatch writes, whose operands are read from the state before it. -/
theorem operandResolution : Obligations.OperandResolution := by
  refine ⟨fun c m d => ⟨readOperand_of_free c, fun q => readOperand_of_pending c⟩, fun c m i r hstation hslot => ?_⟩
  have hissued : entry (offer c m i).rs r = issuedRs c m i := by
    rw [offer_of_free c hstation hslot, dispatch_rs, entry_setEntry_same]
  rw [hissued]
  exact ⟨rfl, rfl⟩

@[simp] theorem issueStage_cycle (c : Config) (prog : List Record) (m : Snapshot) :
    (issueStage c prog m).cycle = m.cycle := by
  rcases issueStage_cases c prog m with ⟨-, h⟩ | ⟨i, -, h⟩
  · rw [h]
  · rcases offer_cases c m i with ⟨-, ho⟩ | ⟨r, -, -, ho⟩
    · rw [h, ho, bubble_cycle]
    · rw [h, ho, dispatch_cycle]

/-! ### The step -/

theorem exec_step (s : State) : exec .step s = .next (runCycle s) := rfl

/-- Settles O21: the step is the stages in order; no stage moves the cycle counter, so it ends one higher than it began. -/
theorem stepRunsTheStagesInOrder : Obligations.StepRunsTheStagesInOrder := by
  refine fun s => ⟨runCycle s, exec_step s, rfl, ?_⟩
  have hcycle : (issueStage s.cfg s.prog (stagesBeforeIssue s.cfg s.live)).cycle = s.live.cycle := by
    simp [stagesBeforeIssue]
  rw [runCycle_live, endCycle, hcycle]
  rfl

end Sys2Proof.Machine
end

section
/-! PROOF. The Writeback stage (40_engine_cycle R127 to R132) in closed form. Stations that write back have both operands, so
no broadcast touches another of them and none changes the record in a slot: what each broadcasts is fixed at the start of the
stage, and the stage is one list of (slot, result) pairs applied to every waiting operand and to the reorder buffer. -/

namespace Sys2Proof.Machine

/-! ### One broadcast on one station -/

@[simp] theorem Operand.forward_val (q : RobIx) (v a : Val) : (Operand.val a).forward q v = .val a := by
  simp [Operand.forward]

theorem Operand.forward_tag_same (q : RobIx) (v : Val) : (Operand.tag q).forward q v = .val v := if_pos rfl

theorem Operand.forward_of_ne {q : RobIx} (v : Val) {o : Operand} (h : o ≠ .tag q) : o.forward q v = o := if_neg h

theorem RsEntry.forward_of_not_busy {e : RsEntry} (h : e.busy = false) (q : RobIx) (v : Val) : e.forward q v = e := by
  simp [RsEntry.forward, h]

theorem RsEntry.forward_of_busy {e : RsEntry} (h : e.busy = true) (q : RobIx) (v : Val) :
    e.forward q v = { e with j := e.j.forward q v, k := e.k.forward q v } := if_pos h

theorem RsEntry.forward_of_eligible {e : RsEntry} (h : e.eligible = true) (q : RobIx) (v : Val) : e.forward q v = e := by
  obtain ⟨hbusy, -, ⟨a, hj⟩, b, hk⟩ := e.eligible_iff.mp h
  rw [RsEntry.forward_of_busy hbusy, hj, hk, Operand.forward_val, Operand.forward_val, ← hj, ← hk]

/-! ### A list of broadcasts -/

/-- The results with the slots they go to, in the order in which they are broadcast. -/
abbrev Broadcasts := List (RobIx × Result)

/-- What these broadcasts, one after another, leave of an operand slot. -/
def Operand.forwardAll (bs : Broadcasts) (o : Operand) : Operand := bs.foldl (fun o b => o.forward b.1 b.2.value) o

/-- What these broadcasts, one after another, leave of a station. -/
def RsEntry.forwardAll (bs : Broadcasts) (e : RsEntry) : RsEntry := bs.foldl (fun e b => e.forward b.1 b.2.value) e

/-- The reorder buffer after these results, one after another. -/
def receiveAll (bs : Broadcasts) (rob : Vector RobEntry 8) : Vector RobEntry 8 :=
  bs.foldl (fun rob b => setEntry rob b.1 ((entry rob b.1).receive b.2)) rob

@[simp] theorem Operand.forwardAll_nil (o : Operand) : o.forwardAll [] = o := rfl
@[simp] theorem RsEntry.forwardAll_nil (e : RsEntry) : e.forwardAll [] = e := rfl
@[simp] theorem receiveAll_nil (rob : Vector RobEntry 8) : receiveAll [] rob = rob := rfl

theorem Operand.forwardAll_cons (b : RobIx × Result) (bs : Broadcasts) (o : Operand) :
    o.forwardAll (b :: bs) = (o.forward b.1 b.2.value).forwardAll bs := rfl
theorem RsEntry.forwardAll_cons (b : RobIx × Result) (bs : Broadcasts) (e : RsEntry) :
    e.forwardAll (b :: bs) = (e.forward b.1 b.2.value).forwardAll bs := rfl
theorem receiveAll_cons (b : RobIx × Result) (bs : Broadcasts) (rob : Vector RobEntry 8) :
    receiveAll (b :: bs) rob = receiveAll bs (setEntry rob b.1 ((entry rob b.1).receive b.2)) := rfl

/-- An operand that waits for none of the slots stays; a resolved one waits for none. -/
theorem Operand.forwardAll_of_forall_ne {bs : Broadcasts} {o : Operand} (h : ∀ b ∈ bs, o ≠ .tag b.1) :
    o.forwardAll bs = o := by
  induction bs with
  | nil => rfl
  | cons b bs ih =>
    obtain ⟨hb, hbs⟩ := List.forall_mem_cons.mp h
    rw [Operand.forwardAll_cons, Operand.forward_of_ne _ hb, ih hbs]

theorem Operand.forwardAll_of_mem {bs : Broadcasts} (hnd : (bs.map Prod.fst).Nodup) {q : RobIx} {res : Result}
    (h : (q, res) ∈ bs) : (Operand.tag q).forwardAll bs = .val res.value := by
  induction bs with
  | nil => cases h
  | cons b bs ih =>
    obtain ⟨hnot, hnd⟩ := List.nodup_cons.mp hnd
    rcases List.mem_cons.mp h with rfl | hmem
    · rw [Operand.forwardAll_cons, Operand.forward_tag_same, Operand.forwardAll_of_forall_ne (by simp)]
    · have hne : q ≠ b.1 := fun he => hnot (he ▸ List.mem_map_of_mem hmem)
      rw [Operand.forwardAll_cons, Operand.forward_of_ne _ (by simpa using hne), ih hnd hmem]

theorem RsEntry.forwardAll_of_not_busy {e : RsEntry} (h : e.busy = false) (bs : Broadcasts) : e.forwardAll bs = e := by
  induction bs with
  | nil => rfl
  | cons b bs ih => rw [RsEntry.forwardAll_cons, RsEntry.forward_of_not_busy h, ih]

/-- The two operands of a busy station are forwarded to independently; nothing else of it changes. -/
theorem RsEntry.forwardAll_of_busy {e : RsEntry} (h : e.busy = true) (bs : Broadcasts) :
    e.forwardAll bs = { e with j := e.j.forwardAll bs, k := e.k.forwardAll bs } := by
  induction bs generalizing e with
  | nil => rfl
  | cons b bs ih =>
    rw [RsEntry.forwardAll_cons, RsEntry.forward_of_busy h]
    exact ih h

theorem RsEntry.forwardAll_frame (e : RsEntry) (bs : Broadcasts) :
    e.forwardAll bs = { e with j := (e.forwardAll bs).j, k := (e.forwardAll bs).k } := by
  by_cases h : e.busy = true
  · rw [RsEntry.forwardAll_of_busy h]
  · rw [RsEntry.forwardAll_of_not_busy (Bool.eq_false_iff.mpr h)]

theorem entry_receiveAll_of_forall_ne {bs : Broadcasts} {q : RobIx} (h : ∀ b ∈ bs, b.1 ≠ q) (rob : Vector RobEntry 8) :
    entry (receiveAll bs rob) q = entry rob q := by
  induction bs generalizing rob with
  | nil => rfl
  | cons b bs ih =>
    obtain ⟨hb, hbs⟩ := List.forall_mem_cons.mp h
    rw [receiveAll_cons, ih hbs, entry_setEntry_ne _ _ hb.symm]

theorem entry_receiveAll_of_mem {bs : Broadcasts} (hnd : (bs.map Prod.fst).Nodup) {q : RobIx} {res : Result}
    (h : (q, res) ∈ bs) (rob : Vector RobEntry 8) : entry (receiveAll bs rob) q = (entry rob q).receive res := by
  induction bs generalizing rob with
  | nil => cases h
  | cons b bs ih =>
    obtain ⟨hnot, hnd⟩ := List.nodup_cons.mp hnd
    rcases List.mem_cons.mp h with rfl | hmem
    · have hrest : ∀ b ∈ bs, b.1 ≠ q := fun b hb he => hnot (List.mem_map.mpr ⟨b, hb, he⟩)
      rw [receiveAll_cons, entry_receiveAll_of_forall_ne hrest, entry_setEntry_same]
    · have hne : q ≠ b.1 := fun he => hnot (he ▸ List.mem_map_of_mem hmem)
      rw [receiveAll_cons, ih hnd hmem, entry_setEntry_ne _ _ hne]

/-! ### The stage as a list of broadcasts -/

/-- What the stations of `l` broadcast, computed in `m`. -/
def broadcasts (c : Config) (m : Snapshot) (l : List RsIx) : Broadcasts :=
  l.map fun p => ((entry m.rs p).dest, stationResult c m (entry m.rs p))

@[simp] theorem broadcasts_nil (c : Config) (m : Snapshot) : broadcasts c m [] = [] := rfl

theorem broadcasts_cons (c : Config) (m : Snapshot) (p : RsIx) (l : List RsIx) :
    broadcasts c m (p :: l) = ((entry m.rs p).dest, stationResult c m (entry m.rs p)) :: broadcasts c m l := rfl

theorem entry_broadcast_rs_ne (c : Config) (m : Snapshot) {p r : RsIx} (h : r ≠ p) :
    entry (broadcast c m p).rs r =
      (entry m.rs r).forward (entry m.rs p).dest (stationResult c m (entry m.rs p)).value := by
  rw [broadcast_rs, entry_setEntry_ne _ _ h, entry_tabulate]

theorem entry_broadcast_rob_instr (c : Config) (m : Snapshot) (p : RsIx) (b : RobIx) :
    (entry (broadcast c m p).rob b).instr = (entry m.rob b).instr := by
  rw [broadcast_rob, entry_setEntry]
  split
  next h => rw [h, RobEntry.receive]
  next => rfl

/-- Of the reorder buffer a station's result reads only the record in its slot, which no broadcast changes. -/
theorem stationResult_broadcast (c : Config) (m : Snapshot) (p : RsIx) (e : RsEntry) :
    stationResult c (broadcast c m p) e = stationResult c m e := by
  rw [stationResult, stationResult, entry_broadcast_rob_instr]

theorem entry_broadcast_rs_of_eligible (c : Config) (m : Snapshot) {p r : RsIx} (h : r ≠ p)
    (hr : (entry m.rs r).eligible = true) : entry (broadcast c m p).rs r = entry m.rs r := by
  rw [entry_broadcast_rs_ne c m h, RsEntry.forward_of_eligible hr]

theorem broadcasts_broadcast (c : Config) {m : Snapshot} {p : RsIx} {l : List RsIx} (hp : p ∉ l)
    (hel : ∀ r ∈ l, (entry m.rs r).eligible = true) : broadcasts c (broadcast c m p) l = broadcasts c m l :=
  List.map_congr_left fun r hr => by
    have hne : r ≠ p := fun he => hp (he ▸ hr)
    rw [entry_broadcast_rs_of_eligible c m hne (hel r hr), stationResult_broadcast]

/-- Eligible stations that write back one after another are emptied, and what they broadcast, as computed before the first of
them, reaches every other station and the reorder buffer. -/
theorem foldl_broadcast_eq (c : Config) {l : List RsIx} (hnd : l.Nodup) {m : Snapshot}
    (hel : ∀ p ∈ l, (entry m.rs p).eligible = true) :
    l.foldl (broadcast c) m =
      { m with
        rs := tabulate fun r => if r ∈ l then emptyRs else (entry m.rs r).forwardAll (broadcasts c m l)
        rob := receiveAll (broadcasts c m l) m.rob } := by
  induction l generalizing m with
  | nil =>
    have hrs : (tabulate fun r => entry m.rs r) = m.rs := table_ext fun r => entry_tabulate _ r
    simp [hrs]
  | cons p l ih =>
    obtain ⟨hp, hnd⟩ := List.nodup_cons.mp hnd
    obtain ⟨-, hel⟩ := List.forall_mem_cons.mp hel
    have hne : ∀ r ∈ l, r ≠ p := fun r hr he => hp (he ▸ hr)
    have hel' : ∀ r ∈ l, (entry (broadcast c m p).rs r).eligible = true := fun r hr => by
      rw [entry_broadcast_rs_of_eligible c m (hne r hr) (hel r hr)]
      exact hel r hr
    have hrs : ∀ r, (if r ∈ l then emptyRs else (entry (broadcast c m p).rs r).forwardAll (broadcasts c m l)) =
        if r ∈ p :: l then emptyRs else (entry m.rs r).forwardAll (broadcasts c m (p :: l)) := fun r => by
      by_cases hrp : r = p
      · subst hrp
        have hempty : entry (broadcast c m r).rs r = emptyRs := by rw [broadcast_rs, entry_setEntry_same]
        rw [if_neg hp, if_pos List.mem_cons_self, hempty, RsEntry.forwardAll_of_not_busy rfl]
      · have hmem : r ∈ p :: l ↔ r ∈ l := by simp [hrp]
        rw [if_congr hmem rfl rfl, entry_broadcast_rs_ne c m hrp, broadcasts_cons, RsEntry.forwardAll_cons]
    rw [List.foldl_cons, ih hnd hel', broadcasts_broadcast c hp hel, funext hrs]
    rfl

/-! ### The eligible stations -/

theorem mem_eligibleStations (m : Snapshot) (p : RsIx) : p ∈ eligibleStations m ↔ (entry m.rs p).eligible = true := by
  have hall : ∀ r : RsIx, r ∈ ([0, 1, 2, 3, 4] : List RsIx) := by decide
  rw [eligibleStations, List.mem_filter, and_iff_right (hall p)]

theorem nodup_eligibleStations (m : Snapshot) : (eligibleStations m).Nodup :=
  List.Nodup.filter _ (by decide)

/-- What the Writeback stage broadcasts. -/
def writebacks (c : Config) (m : Snapshot) : Broadcasts := broadcasts c m (eligibleStations m)

theorem mem_writebacks {c : Config} {m : Snapshot} {b : RobIx × Result} :
    b ∈ writebacks c m ↔
      ∃ p, (entry m.rs p).eligible = true ∧ ((entry m.rs p).dest, stationResult c m (entry m.rs p)) = b := by
  simp only [writebacks, broadcasts, List.mem_map, mem_eligibleStations]

theorem nodup_writebacks (c : Config) {m : Snapshot} (h : DistinctDests m) : ((writebacks c m).map Prod.fst).Nodup := by
  rw [writebacks, broadcasts, List.map_map]
  exact List.Nodup.map_on
    (fun p hp r hr => h p r ((mem_eligibleStations m p).mp hp) ((mem_eligibleStations m r).mp hr))
    (nodup_eligibleStations m)

theorem writebackStage_eq (c : Config) (m : Snapshot) :
    writebackStage c m =
      { m with
        rs := tabulate fun r =>
          if (entry m.rs r).eligible = true then emptyRs else (entry m.rs r).forwardAll (writebacks c m)
        rob := receiveAll (writebacks c m) m.rob } := by
  rw [writebackStage, foldl_broadcast_eq c (nodup_eligibleStations m) fun p => (mem_eligibleStations m p).mp]
  simp only [mem_eligibleStations, writebacks]

theorem writebackStage_frame (c : Config) (m : Snapshot) :
    writebackStage c m = { m with rs := (writebackStage c m).rs, rob := (writebackStage c m).rob } := by
  rw [writebackStage_eq]

theorem writebackStage_rob (c : Config) (m : Snapshot) :
    (writebackStage c m).rob = receiveAll (writebacks c m) m.rob := by
  rw [writebackStage_eq]

theorem entry_writebackStage_of_eligible (c : Config) {m : Snapshot} {r : RsIx} (h : (entry m.rs r).eligible = true) :
    entry (writebackStage c m).rs r = emptyRs := by
  rw [writebackStage_eq, entry_tabulate, if_pos h]

theorem entry_writebackStage_of_not_eligible (c : Config) {m : Snapshot} {r : RsIx}
    (h : (entry m.rs r).eligible = false) :
    entry (writebackStage c m).rs r = (entry m.rs r).forwardAll (writebacks c m) := by
  rw [writebackStage_eq, entry_tabulate, if_neg (Bool.eq_false_iff.mp h)]

/-- An operand that waits for the slot of a station that writes back takes its value. -/
theorem Operand.forwardAll_writebacks (c : Config) {m : Snapshot} (hdist : DistinctDests m) {p : RsIx}
    (hp : (entry m.rs p).eligible = true) {o : Operand} (ho : o = .tag (entry m.rs p).dest) :
    o.forwardAll (writebacks c m) = .val (stationResult c m (entry m.rs p)).value := by
  rw [ho]
  exact Operand.forwardAll_of_mem (nodup_writebacks c hdist) (mem_writebacks.mpr ⟨p, hp, rfl⟩)

/-- An operand that waits for no slot of a station that writes back stays as it is. -/
theorem Operand.forwardAll_writebacks_of_forall_ne (c : Config) {m : Snapshot} {o : Operand}
    (h : ∀ p, (entry m.rs p).eligible = true → o ≠ .tag (entry m.rs p).dest) :
    o.forwardAll (writebacks c m) = o :=
  Operand.forwardAll_of_forall_ne fun b hb => by
    obtain ⟨p, hp, rfl⟩ := mem_writebacks.mp hb
    exact h p hp

/-- Settles O26: each clause is read off the closed form of the stage, the reorder buffer slot by slot and the other stations
operand by operand. -/
theorem writebackBroadcastsEveryResult : Obligations.WritebackBroadcastsEveryResult := by
  refine ⟨RsEntry.eligible_iff, ?_⟩
  intro c m hdist n
  refine ⟨writebackStage_frame c m, fun p hp => ?_, fun b hb => ?_, fun r hr => ?_⟩
  · refine ⟨entry_writebackStage_of_eligible c hp, ?_, fun r hbusy hr => ?_⟩
    · rw [writebackStage_rob]
      exact entry_receiveAll_of_mem (nodup_writebacks c hdist) (mem_writebacks.mpr ⟨p, hp, rfl⟩) m.rob
    · rw [entry_writebackStage_of_not_eligible c hr, RsEntry.forwardAll_of_busy hbusy]
      exact ⟨Operand.forwardAll_writebacks c hdist hp, Operand.forwardAll_writebacks c hdist hp⟩
  · rw [writebackStage_rob]
    refine entry_receiveAll_of_forall_ne (fun x hx => ?_) m.rob
    obtain ⟨p, hp, rfl⟩ := mem_writebacks.mp hx
    exact hb p hp
  · rw [entry_writebackStage_of_not_eligible c hr]
    refine ⟨RsEntry.forwardAll_frame _ _, ?_⟩
    cases hbusy : (entry m.rs r).busy with
    | false =>
      rw [RsEntry.forwardAll_of_not_busy hbusy]
      exact ⟨fun _ => rfl, fun _ => rfl⟩
    | true =>
      simp only [RsEntry.forwardAll_of_busy hbusy, Bool.true_eq_false, false_or]
      exact ⟨Operand.forwardAll_writebacks_of_forall_ne c, Operand.forwardAll_writebacks_of_forall_ne c⟩

end Sys2Proof.Machine
end

section
/-! PROOF. The history (44_history_undo R222, R223): what a push puts on top, what `step_back` does in each case of the history,
and that it undoes the step before it. -/

namespace Sys2Proof.Machine

/-! ### Pushing a Snapshot -/

/-- Unless the history holds no Snapshot at all (depth 0, which 00_scope R8 excludes), the one pushed is its newest. -/
theorem pushHistory_eq_cons {c : Config} (hdepth : c.histDepth ≠ some 0) (m : Snapshot) (hist : List Snapshot) :
    ∃ rest, pushHistory c m hist = m :: rest := by
  unfold pushHistory
  split
  next => exact ⟨hist, rfl⟩
  next d hd =>
    have hpos : d ≠ 0 := fun h => hdepth (h ▸ hd)
    obtain ⟨n, rfl⟩ := Nat.exists_eq_succ_of_ne_zero hpos
    exact ⟨hist.take n, List.take_succ_cons⟩

/-! ### `step_back` -/

theorem exec_stepBack (s : State) : exec .stepBack s = .next (popHistory s) := rfl

theorem popHistory_of_hist_cons {s : State} {m : Snapshot} {rest : List Snapshot} (h : s.hist = m :: rest) :
    popHistory s = { s with live := m, hist := rest } := by
  rw [popHistory, h]

theorem popHistory_of_hist_nil {s : State} (h : s.hist = []) : popHistory s = s := by
  rw [popHistory, h]

@[simp] theorem popHistory_prog (s : State) : (popHistory s).prog = s.prog := by
  rcases popHistory_cases s with ⟨-, h⟩ | ⟨m, rest, -, h⟩ <;> rw [h]

/-- The step pushed the live state it began with, so that is what `step_back` restores. -/
theorem popHistory_runCycle_live {s : State} (hdepth : s.cfg.histDepth ≠ some 0) :
    (popHistory (runCycle s)).live = s.live := by
  obtain ⟨rest, hpush⟩ := pushHistory_eq_cons hdepth s.live s.hist
  have htop : (runCycle s).hist = s.live :: rest := (runCycle_hist s).trans hpush
  rw [popHistory_of_hist_cons htop]

/-- Settles O33: the two cases of the history, and between them `step_back` after a step. -/
theorem stepBackPopsTheHistory : Obligations.StepBackPopsTheHistory := by
  refine ⟨fun s m rest h => ?_, fun s hdepth => ?_, fun s h => ?_⟩
  · rw [exec_stepBack, popHistory_of_hist_cons h]
  · refine ⟨runCycle s, exec_step s, popHistory (runCycle s), exec_stepBack _, popHistory_runCycle_live hdepth, ?_⟩
    rw [popHistory_prog, runCycle_prog]
  · rw [exec_stepBack, popHistory_of_hist_nil h]

end Sys2Proof.Machine
end

section
/-! PROOF. The metrics (45_host_commands R246): the ratio `ipc` before the first cycle and after it. -/

namespace Sys2Proof.Machine

theorem getMetrics_ipc_of_cycle_eq_zero {s : State} (h : s.live.cycle = 0) : (getMetrics s).ipc = 0 :=
  if_pos h

theorem getMetrics_ipc_of_cycle_ne_zero {s : State} (h : s.live.cycle ≠ 0) :
    (getMetrics s).ipc = (s.live.committed : Rat) / s.live.cycle :=
  if_neg h

/-- Settles O38: four of the numbers are the counters themselves; `ipc` is split on whether a cycle has run. -/
theorem metricsReportTheCounters : Obligations.MetricsReportTheCounters := by
  refine fun s => ⟨rfl, rfl, rfl, rfl, getMetrics_ipc_of_cycle_eq_zero, fun hpos => ?_⟩
  have hcycle : (s.live.cycle : Rat) ≠ 0 := Nat.cast_ne_zero.mpr hpos.ne'
  rw [getMetrics_ipc_of_cycle_ne_zero hpos.ne', div_mul_cancel₀ _ hcycle]

end Sys2Proof.Machine
end

section
/-! PROOF. The reorder buffer as a ring (10_state R37): how many places a slot stands after another, (I1) of
70_reset_and_hazards R294 in these terms, and the number of busy slots. -/

namespace Sys2Proof.Machine

/-! ### Places on the ring -/

/-- How many places slot `b` stands after slot `h`: `age` with the slot at `head` as an argument. -/
def ageFrom (h b : RobIx) : Nat := (b.val + 8 - h.val) % 8

theorem age_eq (m : Snapshot) (b : RobIx) : age m b = ageFrom m.head b := rfl

theorem ageFrom_lt (h b : RobIx) : ageFrom h b < 8 := Nat.mod_lt _ (by decide)

@[simp] theorem ageFrom_self (h : RobIx) : ageFrom h h = 0 := by
  rw [ageFrom, Nat.add_sub_cancel_left]

@[simp] theorem slotAt_zero (h : RobIx) : slotAt h 0 = h := Fin.ext (Nat.mod_eq_of_lt h.isLt)

@[simp] theorem slotAt_ageFrom (h b : RobIx) : slotAt h (ageFrom h b) = b := by
  have := h.isLt
  have := b.isLt
  apply Fin.ext
  simp only [slotAt, ageFrom]
  omega

theorem ageFrom_slotAt (h : RobIx) {k : Nat} (hk : k < 8) : ageFrom h (slotAt h k) = k := by
  have := h.isLt
  simp only [slotAt, ageFrom]
  omega

theorem ageFrom_eq_zero_iff {h b : RobIx} : ageFrom h b = 0 ↔ b = h :=
  ⟨fun hage => by rw [← slotAt_ageFrom h b, hage, slotAt_zero], fun hb => by rw [hb, ageFrom_self]⟩

/-- Seen from the slot after `h`, every slot but `h` stands one place nearer. -/
theorem ageFrom_succ {h b : RobIx} (hb : b ≠ h) : ageFrom (h + 1) b + 1 = ageFrom h b := by
  have hpos : ageFrom h b ≠ 0 := mt ageFrom_eq_zero_iff.mp hb
  have := h.isLt
  have := b.isLt
  simp only [ageFrom, robIx_val_succ] at hpos ⊢
  omega

theorem slotAt_succ (h : RobIx) (k : Nat) : slotAt h (k + 1) = slotAt h k + 1 := by
  apply Fin.ext
  simp only [robIx_val_succ, slotAt]
  omega

theorem slotAt_head_succ (h : RobIx) (k : Nat) : slotAt (h + 1) k = slotAt h (k + 1) := by
  apply Fin.ext
  simp only [slotAt, robIx_val_succ]
  omega

/-! ### (I1) by ages -/

/-- (I1) with its length: the busy slots are the `n` first ones from `head` on, and `tail` is the slot after them. -/
structure Fifo (n : Nat) (m : Snapshot) : Prop where
  le : n ≤ 8
  tail : m.tail = slotAt m.head n
  busy : ∀ b, (entry m.rob b).busy = true ↔ ageFrom m.head b < n

theorem fifoInv_iff {m : Snapshot} : FifoInv m ↔ ∃ n, Fifo n m := by
  constructor
  · rintro ⟨n, htail, hbusy⟩
    refine ⟨n.val, Nat.le_of_lt_succ n.isLt, htail, fun b => ?_⟩
    have hb := hbusy ⟨ageFrom m.head b, ageFrom_lt _ _⟩
    rw [slotAt_ageFrom] at hb
    rw [hb, decide_eq_true_iff]
  · rintro ⟨n, hle, htail, hbusy⟩
    refine ⟨⟨n, Nat.lt_succ_of_le hle⟩, htail, fun k => ?_⟩
    rw [Bool.eq_iff_iff, hbusy, ageFrom_slotAt _ k.isLt, decide_eq_true_iff]

namespace Fifo
variable {n : Nat} {m : Snapshot}

theorem congr {m' : Snapshot} (h : Fifo n m) (hhead : m'.head = m.head) (htail : m'.tail = m.tail)
    (hbusy : ∀ b, (entry m'.rob b).busy = (entry m.rob b).busy) : Fifo n m' :=
  ⟨h.le, by rw [htail, hhead, h.tail], fun b => by rw [hbusy, hhead, h.busy]⟩

theorem head_busy_iff (h : Fifo n m) : (entry m.rob m.head).busy = true ↔ 0 < n := by
  rw [h.busy, ageFrom_self]

theorem ageFrom_tail (h : Fifo n m) (hn : n < 8) : ageFrom m.head m.tail = n := by
  rw [h.tail, ageFrom_slotAt _ hn]

/-- `tail` names a busy slot only when the buffer is full. -/
theorem tail_busy_iff (h : Fifo n m) : (entry m.rob m.tail).busy = true ↔ n = 8 := by
  rw [h.busy]
  refine ⟨fun hlt => ?_, fun hn => hn ▸ ageFrom_lt _ _⟩
  by_contra hne
  rw [h.ageFrom_tail (lt_of_le_of_ne h.le hne)] at hlt
  exact hlt.false

theorem lt_of_tail_free (h : Fifo n m) (hfree : (entry m.rob m.tail).busy = false) : n < 8 :=
  lt_of_le_of_ne h.le fun hn => by simp [h.tail_busy_iff.mpr hn] at hfree

theorem head_eq_tail_iff (h : Fifo n m) : m.head = m.tail ↔ n = 0 ∨ n = 8 := by
  rw [h.tail]
  rcases h.le.lt_or_eq with hlt | rfl
  · rw [eq_comm, ← ageFrom_eq_zero_iff, ageFrom_slotAt _ hlt]
    omega
  · refine iff_of_true (Fin.ext ?_) (.inr rfl)
    simp [slotAt, Nat.mod_eq_of_lt m.head.isLt]

/-- The slot at `head` leaves the buffer. -/
theorem retire {m' : Snapshot} (h : Fifo (n + 1) m) (hhead : m'.head = m.head + 1) (htail : m'.tail = m.tail)
    (hrob : m'.rob = setEntry m.rob m.head emptyRob) : Fifo n m' := by
  refine ⟨by have := h.le; omega, by rw [htail, hhead, h.tail, slotAt_head_succ], fun b => ?_⟩
  rw [hrob, hhead, entry_setEntry]
  split
  next hb =>
    subst hb
    have hlast : ageFrom (m.head + 1) m.head = 7 := by
      have := m.head.isLt
      simp only [ageFrom, robIx_val_succ]
      omega
    have := h.le
    rw [hlast]
    exact iff_of_false (by simp [emptyRob]) (by omega)
  next hb =>
    rw [h.busy]
    have := ageFrom_succ hb
    omega

/-- A busy entry is written to the free slot at `tail`. -/
theorem claim {m' : Snapshot} {e : RobEntry} (h : Fifo n m) (hfree : (entry m.rob m.tail).busy = false)
    (he : e.busy = true) (hhead : m'.head = m.head) (htail : m'.tail = m.tail + 1)
    (hrob : m'.rob = setEntry m.rob m.tail e) : Fifo (n + 1) m' := by
  have hn := h.lt_of_tail_free hfree
  refine ⟨hn, by rw [htail, hhead, h.tail, slotAt_succ], fun b => ?_⟩
  rw [hrob, hhead, entry_setEntry]
  split
  next hb =>
    subst hb
    simp [he, h.ageFrom_tail hn]
  next hb =>
    have hne : ageFrom m.head b ≠ n := fun hage => hb (by rw [h.tail, ← hage, slotAt_ageFrom])
    rw [h.busy]
    omega

/-- Nothing is in flight. -/
theorem of_empty (hrob : m.rob = filled 8 emptyRob) (hht : m.head = m.tail) : Fifo 0 m :=
  ⟨Nat.zero_le _, by rw [slotAt_zero, hht], fun b => by simp [hrob, emptyRob]⟩

/-- The places before the `n`-th of a ring of eight are `n`. -/
theorem countP_ageFrom_lt (h : RobIx) (n : Fin 9) :
    (List.finRange 8).countP (fun b => decide (ageFrom h b < n.val)) = n.val := by decide +revert

theorem occupancy_eq (h : Fifo n m) : occupancy m = n := by
  have hbusy : (fun b => (entry m.rob b).busy) = fun b => decide (ageFrom m.head b < n) :=
    funext fun b => Bool.eq_iff_iff.mpr (by rw [h.busy, decide_eq_true_iff])
  rw [occupancy, hbusy]
  exact countP_ageFrom_lt m.head ⟨n, Nat.lt_succ_of_le h.le⟩

end Fifo

/-- Settles O50: each part is read off the length of the FIFO, which is the number of busy slots. -/
theorem headMeetsTailWhenEmptyOrFull : Obligations.HeadMeetsTailWhenEmptyOrFull := by
  intro m hfifo
  obtain ⟨n, h⟩ := fifoInv_iff.mp hfifo
  rw [h.occupancy_eq]
  exact ⟨h.head_eq_tail_iff, h.tail_busy_iff, h.le⟩

/-- Settles O39: in a FIFO the slot at `head` is free exactly when every slot is. -/
theorem completeMeansDrained : Obligations.CompleteMeansDrained := by
  intro s hfifo
  obtain ⟨n, h⟩ := fifoInv_iff.mp hfifo
  have hdrained : (entry s.live.rob s.live.head).busy = false ↔ ∀ b, (entry s.live.rob b).busy = false := by
    refine ⟨fun hhead b => ?_, fun hall => hall _⟩
    rw [Bool.eq_false_iff, ne_eq, h.busy]
    rw [Bool.eq_false_iff, ne_eq, h.head_busy_iff] at hhead
    omega
  rw [← hdrained]
  simp [isComplete]

end Sys2Proof.Machine
end

section
/-! PROOF. Two inductions packaged once: over the stages of a cycle, and over the clock edges. -/

namespace Sys2Proof.Machine

/-! ### Over the stages of a cycle -/

/-- What one `STEP` makes of the live state (40_engine_cycle R120). -/
def nextLive (c : Config) (prog : List Record) (m : Snapshot) : Snapshot :=
  endCycle (issueStage c prog (stagesBeforeIssue c m))

theorem runCycle_live_eq (s : State) : (runCycle s).live = nextLive s.cfg s.prog s.live := rfl

/-- What every eligible station's broadcast keeps, the Writeback stage keeps: an eligible station stays eligible until
its turn. -/
theorem writebackStage_keeps (c : Config) {P : Snapshot → Prop}
    (hbroadcast : ∀ m p, (entry m.rs p).eligible = true → P m → P (broadcast c m p)) {m : Snapshot} (hm : P m) :
    P (writebackStage c m) := by
  have hfold : ∀ (l : List RsIx) (m : Snapshot), l.Nodup → (∀ p ∈ l, (entry m.rs p).eligible = true) → P m →
      P (l.foldl (broadcast c) m) := by
    intro l
    induction l with
    | nil => exact fun m _ _ hm => hm
    | cons p l ih =>
      intro m hnd hel hm
      obtain ⟨hp, hnd⟩ := List.nodup_cons.mp hnd
      obtain ⟨help, hel⟩ := List.forall_mem_cons.mp hel
      refine ih _ hnd (fun r hr => ?_) (hbroadcast m p help hm)
      rw [entry_broadcast_rs_of_eligible c m (fun he : r = p => hp (he ▸ hr)) (hel r hr)]
      exact hel r hr
  exact hfold _ m (nodup_eligibleStations m) (fun p => (mem_eligibleStations m p).mp) hm

/-- Everything the Issue stage can do, the offer taken apart: nothing, a bubble, or a dispatch of the record at `pc`. -/
theorem issueStage_outcomes (c : Config) (prog : List Record) (m : Snapshot) :
    issueStage c prog m = m ∨ issueStage c prog m = bubble m ∨
      ∃ i r, prog[m.pc]? = some i ∧ freeStation m.rs (opClass i.op) = some r ∧ (entry m.rob m.tail).busy = false ∧
        issueStage c prog m = dispatch c m i r := by
  rcases issueStage_cases c prog m with ⟨-, heq⟩ | ⟨i, hi, heq⟩
  · exact .inl heq
  · rcases offer_cases c m i with ⟨-, hoffer⟩ | ⟨r, hr, hfree, hoffer⟩
    · exact .inr (.inl (heq.trans hoffer))
    · exact .inr (.inr ⟨i, r, hi, hr, hfree, heq.trans hoffer⟩)

/-- Each thing a stage of a cycle over this stream can do keeps `P`. -/
structure KeptByStages (c : Config) (prog : List Record) (P : Snapshot → Prop) : Prop where
  commit : ∀ m, P m → P (commitStage c m)
  broadcast : ∀ m p, (entry m.rs p).eligible = true → P m → P (broadcast c m p)
  execute : ∀ m, P m → P (executeStage m)
  dispatch : ∀ m i r, prog[m.pc]? = some i → freeStation m.rs (opClass i.op) = some r →
    (entry m.rob m.tail).busy = false → P m → P (dispatch c m i r)
  bubble : ∀ m, P m → P (bubble m)
  endCycle : ∀ m, P m → P (endCycle m)

namespace KeptByStages
variable {c : Config} {prog : List Record} {P : Snapshot → Prop} {m : Snapshot}

theorem stagesBeforeIssue (h : KeptByStages c prog P) (hm : P m) : P (stagesBeforeIssue c m) :=
  h.execute _ (writebackStage_keeps c h.broadcast (h.commit m hm))

theorem issueStage (h : KeptByStages c prog P) (hm : P m) : P (issueStage c prog m) := by
  rcases issueStage_outcomes c prog m with heq | heq | ⟨i, r, hi, hr, hfree, heq⟩ <;> rw [heq]
  · exact hm
  · exact h.bubble m hm
  · exact h.dispatch m i r hi hr hfree hm

theorem nextLive (h : KeptByStages c prog P) (hm : P m) : P (nextLive c prog m) :=
  h.endCycle _ (h.issueStage (h.stagesBeforeIssue hm))

end KeptByStages

/-! ### Over the clock edges -/

/-- Everything a clock edge can do: nothing but take the input (no command, or a refused load), one cycle, one undo, and
the three initialising events of 10_state R47. -/
inductive Edge (s : State) : State → Prop where
  | idle (e : Option LoadError) : Edge s { takeInput s with loadError := e }
  | cycle : Edge s (runCycle (takeInput s))
  | undo {m : Snapshot} {rest : List Snapshot} (h : s.hist = m :: rest) :
      Edge s { takeInput s with live := m, hist := rest }
  | reset : Edge s (resetEngine (takeInput s))
  | construct (h : (sampledInput s).rst = true) : Edge s (constructEngine (takeInput s))
  | load {q : List Record} (hcmd : (sampledInput s).cmd.toNat = 4) (h : checkProgram (sampledInput s).stream = .ok q) :
      Edge s (installProgram (takeInput s) q)

theorem decodeCmd_eq_loadProgram {k : CmdCode} {p q : List RawRecord} (h : decodeCmd k p = .loadProgram q) :
    k.toNat = 4 := by
  unfold decodeCmd at h
  split at h <;> simp_all

theorem edge_of_step {s t : State} (h : step s = .next t) : Edge s t := by
  rcases step_cases h with ⟨hrst, rfl⟩ | ⟨-, hexec⟩
  · exact .construct hrst
  · rcases decodeCmd_cases (sampledInput s).cmd (sampledInput s).stream with hd | hd | hd | hd | hd
    all_goals rw [hd] at hexec
    · obtain rfl : takeInput s = t := Host.Outcome.next.inj hexec
      exact .idle none
    · obtain rfl : runCycle (takeInput s) = t := Host.Outcome.next.inj hexec
      exact .cycle
    · obtain rfl : popHistory (takeInput s) = t := Host.Outcome.next.inj hexec
      rcases popHistory_cases (takeInput s) with ⟨-, heq⟩ | ⟨m, rest, hhist, heq⟩
      · rw [heq]
        exact .idle none
      · rw [heq]
        exact .undo hhist
    · obtain rfl : resetEngine (takeInput s) = t := Host.Outcome.next.inj hexec
      exact .reset
    · obtain rfl : loadEngine (takeInput s) (sampledInput s).stream = t := Host.Outcome.next.inj hexec
      rcases loadEngine_cases (takeInput s) (sampledInput s).stream with ⟨e, -, heq⟩ | ⟨q, hq, heq⟩
      · rw [heq]
        exact .idle (some e)
      · rw [heq]
        exact .load (decodeCmd_eq_loadProgram hd) hq

/-- What holds of the Snapshots after every initialising event and is kept by a cycle over the loaded stream, every edge
keeps in the live state and in every stored Snapshot. -/
theorem Edge.keeps_snapshots {s t : State} (he : Edge s t) {P : List Record → Snapshot → Prop}
    (hreset : ∀ prog, P prog (freshSnapshot s.cfg.regReset)) (hseed : ∀ prog, P prog (freshSnapshot s.cfg.regSeed))
    (hcycle : ∀ m ∈ s.live :: s.hist, P s.prog m → P s.prog (nextLive s.cfg s.prog m))
    (h : ∀ m ∈ s.live :: s.hist, P s.prog m) : ∀ m ∈ t.live :: t.hist, P t.prog m := by
  cases he with
  | idle e => exact h
  | cycle =>
    refine List.forall_mem_cons.mpr ⟨hcycle _ List.mem_cons_self (h _ List.mem_cons_self), fun m hm => h m ?_⟩
    exact List.mem_cons.mpr (mem_pushHistory hm)
  | undo hhist =>
    refine fun m hm => h m (List.mem_cons_of_mem _ ?_)
    rw [hhist]
    exact hm
  | reset => exact List.forall_mem_singleton.mpr (hreset _)
  | construct => exact List.forall_mem_singleton.mpr (hreset _)
  | load => exact List.forall_mem_singleton.mpr (hseed _)

end Sys2Proof.Machine
end

section
/-! PROOF. The pipeline invariant, (I1) to (I7) of 70_reset_and_hazards R294: each thing a stage can do keeps it. A
broadcast is split into what it does to the other stations (operands get resolved) and the release of its own. -/

namespace Sys2Proof.Machine

/-! ### The invariant and what it says of one station or slot -/

/-- (I1) to (I7) of one Snapshot, as a proposition for each. -/
structure PipelineInv (prog : List Record) (m : Snapshot) : Prop where
  fifo : FifoInv m
  canonical : CanonicalInv m
  slots : SlotInv m
  pairs : PairInv m
  classes : ClassInv m
  renames : RenameInv m
  countdown : CountdownInv m
  fetches : FetchInv prog m

theorem pipelineOk_iff {prog : List Record} {m : Snapshot} : pipelineOk prog m = true ↔ PipelineInv prog m := by
  simp only [pipelineOk, Bool.and_eq_true, decide_eq_true_iff]
  exact ⟨fun ⟨⟨⟨⟨⟨⟨⟨h1, h2⟩, h3⟩, h4⟩, h5⟩, h6⟩, h7⟩, h8⟩ => ⟨h1, h2, h3, h4, h5, h6, h7, h8⟩,
    fun ⟨h1, h2, h3, h4, h5, h6, h7, h8⟩ => ⟨⟨⟨⟨⟨⟨⟨h1, h2⟩, h3⟩, h4⟩, h5⟩, h6⟩, h7⟩, h8⟩⟩

theorem engineInv_iff {s : State} :
    EngineInv s ↔ WfStream s.prog ∧ ∀ m ∈ s.live :: s.hist, PipelineInv s.prog m := by
  simp only [EngineInv, pipelineOk_iff]

theorem renamingWriter_iff {m : Snapshot} {d : RegIx} {b : RobIx} :
    renamingWriter m d b = true ↔
      (entry m.rob b).busy = true ∧ ∃ i, (entry m.rob b).instr = some i ∧ i.op.writesRename = true ∧ i.rd = d := by
  cases h : (entry m.rob b).instr <;> simp [renamingWriter, h]

theorem renamingWriter_congr {m m' : Snapshot} {d : RegIx} {b : RobIx}
    (hbusy : (entry m'.rob b).busy = (entry m.rob b).busy) (hinstr : (entry m'.rob b).instr = (entry m.rob b).instr) :
    renamingWriter m' d b = renamingWriter m d b := by
  rw [renamingWriter, renamingWriter, hbusy, hinstr]

/-- Slot `q` is the youngest in-flight renaming writer of register `d`. -/
def YoungestWriter (m : Snapshot) (d : RegIx) (q : RobIx) : Prop :=
  renamingWriter m d q = true ∧ ∀ b, renamingWriter m d b = true → age m b ≤ age m q

theorem renameInv_iff {m : Snapshot} :
    RenameInv m ↔
      ∀ d, (entry m.rst d = none → ∀ b, renamingWriter m d b = false) ∧
        ∀ q, entry m.rst d = some q → YoungestWriter m d q := by
  refine forall_congr' fun d => ?_
  cases entry m.rst d <;> simp [renameEntryOk, YoungestWriter]

section
variable {prog : List Record} {m : Snapshot} (h : PipelineInv prog m)
include h

theorem PipelineInv.slot_busy {r : RsIx} (hr : (entry m.rs r).busy = true) :
    (entry m.rob (entry m.rs r).dest).busy = true := (h.pairs.1 r hr).1

theorem PipelineInv.slot_executing {r : RsIx} (hr : (entry m.rs r).busy = true) :
    (entry m.rob (entry m.rs r).dest).state = .executing := (h.pairs.1 r hr).2.1

theorem PipelineInv.slot_instr {r : RsIx} (hr : (entry m.rs r).busy = true) :
    ∃ i, (entry m.rob (entry m.rs r).dest).instr = some i ∧ i.op = (entry m.rs r).op :=
  Option.map_eq_some_iff.mp (h.pairs.1 r hr).2.2

theorem PipelineInv.dest_ne {r p : RsIx} (hr : (entry m.rs r).busy = true) (hp : (entry m.rs p).busy = true)
    (hne : r ≠ p) : (entry m.rs r).dest ≠ (entry m.rs p).dest :=
  fun hd => hne (h.pairs.2.1 r p hr hp hd)

theorem PipelineInv.station {b : RobIx} (hb : (entry m.rob b).busy = true) (hx : (entry m.rob b).state = .executing) :
    ∃ r, (entry m.rs r).busy = true ∧ (entry m.rs r).dest = b := h.pairs.2.2 b hb hx

theorem PipelineInv.record {b : RobIx} (hb : (entry m.rob b).busy = true) :
    ∃ i, (entry m.rob b).instr = some i ∧ (entry m.rob b).dest = destOf i := by
  obtain ⟨i, hi, hd⟩ := Option.map_eq_some_iff.mp (h.slots b hb)
  exact ⟨i, hi, hd.symm⟩

theorem PipelineInv.executing_or_ready {b : RobIx} (hb : (entry m.rob b).busy = true) :
    (entry m.rob b).state = .executing ∨ (entry m.rob b).state = .ready := by
  have hw := h.canonical.1 b hb
  cases hs : (entry m.rob b).state with
  | waiting => exact absurd hs hw
  | executing => exact .inl rfl
  | ready => exact .inr rfl

theorem PipelineInv.youngest {d : RegIx} {q : RobIx} (hq : entry m.rst d = some q) : YoungestWriter m d q :=
  (renameInv_iff.mp h.renames d).2 q hq

theorem PipelineInv.no_writer {d : RegIx} (hd : entry m.rst d = none) (b : RobIx) : renamingWriter m d b = false :=
  (renameInv_iff.mp h.renames d).1 hd b

end

/-! ### Empty buffers -/

/-- With nothing in flight every clause is vacuous. -/
theorem PipelineInv.of_quiescent (prog : List Record) {m : Snapshot} (h : Quiescent m) : PipelineInv prog m := by
  obtain ⟨hrs, hrob, hrst, hht⟩ := h
  have hr : ∀ r, entry m.rs r = emptyRs := fun r => by rw [hrs, entry_filled]
  have hb : ∀ b, entry m.rob b = emptyRob := fun b => by rw [hrob, entry_filled]
  have hd : ∀ d, entry m.rst d = none := fun d => by rw [hrst, entry_filled]
  have hw : ∀ d b, renamingWriter m d b = false := fun d b => by simp [renamingWriter, hb, emptyRob]
  have hr' : ∀ r, (entry m.rs r).busy ≠ true := fun r => by simp [hr, emptyRs]
  have hb' : ∀ b, (entry m.rob b).busy ≠ true := fun b => by simp [hb, emptyRob]
  exact
    { fifo := fifoInv_iff.mpr ⟨0, .of_empty hrob hht⟩
      canonical := ⟨fun b hbusy => absurd hbusy (hb' b), fun b _ => hb b, fun r _ => hr r⟩
      slots := fun b hbusy => absurd hbusy (hb' b)
      pairs := ⟨fun r hbusy => absurd hbusy (hr' r), fun r _ hbusy => absurd hbusy (hr' r),
        fun b hbusy => absurd hbusy (hb' b)⟩
      classes := fun r hbusy => absurd hbusy (hr' r)
      renames := renameInv_iff.mpr fun d => ⟨fun _ => hw d, fun q hq => by simp [hd] at hq⟩
      countdown := fun r hbusy => absurd hbusy (hr' r)
      fetches := fun r hbusy => absurd hbusy (hr' r) }

theorem quiescent_fresh (rf : Vector Val 32) : Quiescent (freshSnapshot rf) := ⟨rfl, rfl, rfl, rfl⟩

/-! ### Execute, and a broadcast seen by the other stations -/

/-- What forwarding and Execute can make of a station: operands get resolved, a countdown without pending operand goes
down. -/
structure RsEntry.Progress (e e' : RsEntry) : Prop where
  busy : e'.busy = e.busy
  op : e'.op = e.op
  dest : e'.dest = e.dest
  pcIssue : e'.pcIssue = e.pcIssue
  lat_le : e'.lat ≤ e.lat
  pending : e'.resolved = false → e.resolved = false ∧ e'.lat = e.lat
  idle : e.busy = false → e' = e

theorem Operand.resolved_forward {o : Operand} (q : RobIx) (v : Val) (h : o.resolved = true) :
    (o.forward q v).resolved = true := by
  obtain ⟨a, rfl⟩ := (Operand.resolved_iff o).mp h
  rw [Operand.forward_val]
  exact h

theorem RsEntry.progress_forward (e : RsEntry) (q : RobIx) (v : Val) : e.Progress (e.forward q v) := by
  cases hbusy : e.busy with
  | false =>
    rw [RsEntry.forward_of_not_busy hbusy]
    exact ⟨rfl, rfl, rfl, rfl, le_rfl, fun h => ⟨h, rfl⟩, fun _ => rfl⟩
  | true =>
    rw [RsEntry.forward_of_busy hbusy]
    refine ⟨rfl, rfl, rfl, rfl, le_rfl, fun h => ⟨?_, rfl⟩, fun h => by simp [hbusy] at h⟩
    by_contra hres
    rw [Bool.not_eq_false, RsEntry.resolved, Bool.and_eq_true] at hres
    obtain ⟨hj, hk⟩ := hres
    simp [RsEntry.resolved, Operand.resolved_forward q v hj, Operand.resolved_forward q v hk] at h

theorem RsEntry.progress_tick (e : RsEntry) : e.Progress e.tick := by
  by_cases h : e.busy = true ∧ e.resolved = true
  · obtain ⟨hbusy, hres⟩ := h
    rw [RsEntry.tick_of_resolved hbusy hres]
    refine ⟨rfl, rfl, rfl, rfl, Nat.sub_le _ _, fun hp => ?_, fun hidle => by simp [hbusy] at hidle⟩
    exact absurd hres (Bool.eq_false_iff.mp hp)
  · rw [RsEntry.tick_of_not_resolved h]
    exact ⟨rfl, rfl, rfl, rfl, le_rfl, fun h => ⟨h, rfl⟩, fun _ => rfl⟩

theorem PipelineInv.progress {prog : List Record} {m : Snapshot} (h : PipelineInv prog m) {rs' : Vector RsEntry 5}
    (hrs : ∀ r, (entry m.rs r).Progress (entry rs' r)) : PipelineInv prog { m with rs := rs' } where
  fifo := h.fifo
  slots := h.slots
  renames := h.renames
  canonical := by
    refine ⟨h.canonical.1, h.canonical.2.1, fun r hr => ?_⟩
    have hidle := (hrs r).busy.symm.trans hr
    rw [(hrs r).idle hidle, h.canonical.2.2 r hidle]
  pairs := by
    refine ⟨fun r hr => ?_, fun r r' hr hr' hd => ?_, fun b hb hx => ?_⟩
    · rw [(hrs r).busy] at hr
      rw [(hrs r).dest, (hrs r).op]
      exact h.pairs.1 r hr
    · rw [(hrs r).busy] at hr
      rw [(hrs r').busy] at hr'
      rw [(hrs r).dest, (hrs r').dest] at hd
      exact h.pairs.2.1 r r' hr hr' hd
    · obtain ⟨r, hr, hd⟩ := h.station hb hx
      exact ⟨r, (hrs r).busy.trans hr, (hrs r).dest.trans hd⟩
  classes := fun r hr => by
    rw [(hrs r).busy] at hr
    rw [(hrs r).op]
    exact h.classes r hr
  countdown := fun r hr => by
    rw [(hrs r).busy] at hr
    obtain ⟨hle, hpending⟩ := h.countdown r hr
    rw [(hrs r).op]
    refine ⟨(hrs r).lat_le.trans hle, fun hp => ?_⟩
    obtain ⟨hp, hlat⟩ := (hrs r).pending hp
    rw [hlat, hpending hp]
  fetches := fun r hr => by
    rw [(hrs r).busy] at hr
    rw [(hrs r).pcIssue, (hrs r).dest]
    exact h.fetches r hr

theorem PipelineInv.execute {prog : List Record} {m : Snapshot} (h : PipelineInv prog m) :
    PipelineInv prog (executeStage m) :=
  h.progress fun r => by rw [entry_tabulate]; exact RsEntry.progress_tick _

/-! ### The release of a station -/

/-- Station `p` is emptied and its slot `q` receives the result (40_engine_cycle R129, R131). -/
def release (m : Snapshot) (p : RsIx) (q : RobIx) (res : Result) : Snapshot :=
  { m with rs := setEntry m.rs p emptyRs, rob := setEntry m.rob q ((entry m.rob q).receive res) }

/-- A broadcast is the forwarding to every station and then the release of its own. -/
theorem broadcast_eq_release (c : Config) (m : Snapshot) (p : RsIx) :
    broadcast c m p =
      release
        { m with
          rs := tabulate fun r =>
            (entry m.rs r).forward (entry m.rs p).dest (stationResult c m (entry m.rs p)).value }
        p (entry m.rs p).dest (stationResult c m (entry m.rs p)) := rfl

section
variable (m : Snapshot) (p : RsIx) (q b : RobIx) (res : Result)

theorem release_rob_busy : (entry (release m p q res).rob b).busy = (entry m.rob b).busy := by
  rw [release, entry_setEntry]
  split
  next hb => rw [hb, RobEntry.receive]
  next => rfl

theorem release_rob_instr : (entry (release m p q res).rob b).instr = (entry m.rob b).instr := by
  rw [release, entry_setEntry]
  split
  next hb => rw [hb, RobEntry.receive]
  next => rfl

theorem release_rob_dest : (entry (release m p q res).rob b).dest = (entry m.rob b).dest := by
  rw [release, entry_setEntry]
  split
  next hb => rw [hb, RobEntry.receive]
  next => rfl

theorem release_rob_same : entry (release m p q res).rob q = (entry m.rob q).receive res := entry_setEntry_same _ _ _

theorem release_rob_ne {b : RobIx} (h : b ≠ q) : entry (release m p q res).rob b = entry m.rob b :=
  entry_setEntry_ne _ _ h

theorem release_rs_ne {r : RsIx} (h : r ≠ p) : entry (release m p q res).rs r = entry m.rs r := entry_setEntry_ne _ _ h

/-- A station that is still busy after the release is another one, and it is as it was. -/
theorem of_release_rs_busy {r : RsIx} (h : (entry (release m p q res).rs r).busy = true) :
    r ≠ p ∧ entry (release m p q res).rs r = entry m.rs r ∧ (entry m.rs r).busy = true := by
  have hne : r ≠ p := by
    rintro rfl
    rw [release, entry_setEntry_same] at h
    exact Bool.noConfusion h
  rw [release_rs_ne m p q res hne] at h ⊢
  exact ⟨hne, rfl, h⟩

end

theorem PipelineInv.release {prog : List Record} {m : Snapshot} (h : PipelineInv prog m) {p : RsIx}
    (hp : (entry m.rs p).busy = true) (res : Result) :
    PipelineInv prog (release m p (entry m.rs p).dest res) where
  fifo := by
    obtain ⟨n, hfifo⟩ := fifoInv_iff.mp h.fifo
    exact fifoInv_iff.mpr ⟨n, hfifo.congr rfl rfl fun b => release_rob_busy m p _ b res⟩
  canonical := by
    refine ⟨fun b hb => ?_, fun b hb => ?_, fun r hr => ?_⟩
    · by_cases hbq : b = (entry m.rs p).dest
      · rw [hbq, release_rob_same]
        exact RobState.noConfusion
      · rw [release_rob_ne m p _ res hbq] at hb ⊢
        exact h.canonical.1 b hb
    · rw [release_rob_busy] at hb
      have hbq : b ≠ (entry m.rs p).dest := fun he => by simp [he, h.slot_busy hp] at hb
      rw [release_rob_ne m p _ res hbq, h.canonical.2.1 b hb]
    · by_cases hrp : r = p
      · rw [hrp]
        exact entry_setEntry_same _ _ _
      · rw [release_rs_ne m p _ res hrp] at hr ⊢
        exact h.canonical.2.2 r hr
  slots := fun b hb => by
    rw [release_rob_busy] at hb
    rw [release_rob_instr, release_rob_dest]
    exact h.slots b hb
  pairs := by
    refine ⟨fun r hr => ?_, fun r r' hr hr' hd => ?_, fun b hb hx => ?_⟩
    · obtain ⟨hne, heq, hr⟩ := of_release_rs_busy m p _ res hr
      rw [heq, release_rob_ne m p _ res (h.dest_ne hr hp hne)]
      exact h.pairs.1 r hr
    · obtain ⟨-, heq, hr⟩ := of_release_rs_busy m p _ res hr
      obtain ⟨-, heq', hr'⟩ := of_release_rs_busy m p _ res hr'
      rw [heq, heq'] at hd
      exact h.pairs.2.1 r r' hr hr' hd
    · have hbq : b ≠ (entry m.rs p).dest := by
        rintro rfl
        rw [release_rob_same] at hx
        exact RobState.noConfusion hx
      rw [release_rob_ne m p _ res hbq] at hb hx
      obtain ⟨r, hr, hd⟩ := h.station hb hx
      have hne : r ≠ p := fun he => hbq (he ▸ hd.symm)
      rw [← release_rs_ne m p (entry m.rs p).dest res hne] at hr hd
      exact ⟨r, hr, hd⟩
  classes := fun r hr => by
    obtain ⟨-, heq, hr⟩ := of_release_rs_busy m p _ res hr
    rw [heq]
    exact h.classes r hr
  renames := by
    have hw : ∀ d b, renamingWriter (Machine.release m p (entry m.rs p).dest res) d b = renamingWriter m d b :=
      fun d b => renamingWriter_congr (release_rob_busy m p _ b res) (release_rob_instr m p _ b res)
    refine renameInv_iff.mpr fun d => ⟨fun hd b => ?_, fun q hq => ?_⟩
    · rw [hw]
      exact h.no_writer hd b
    · obtain ⟨hq, hmax⟩ := h.youngest hq
      exact ⟨(hw d q).trans hq, fun b hb => hmax b ((hw d b).symm.trans hb)⟩
  countdown := fun r hr => by
    obtain ⟨-, heq, hr⟩ := of_release_rs_busy m p _ res hr
    rw [heq]
    exact h.countdown r hr
  fetches := fun r hr => by
    obtain ⟨-, heq, hr⟩ := of_release_rs_busy m p _ res hr
    rw [heq, release_rob_instr]
    exact h.fetches r hr

theorem PipelineInv.broadcast {prog : List Record} {m : Snapshot} (h : PipelineInv prog m) (c : Config) {p : RsIx}
    (hp : (entry m.rs p).eligible = true) : PipelineInv prog (broadcast c m p) := by
  obtain ⟨hbusy, -, -, -⟩ := (RsEntry.eligible_iff _).mp hp
  have hself : (entry m.rs p).forward (entry m.rs p).dest (stationResult c m (entry m.rs p)).value = entry m.rs p :=
    RsEntry.forward_of_eligible hp _ _
  have hforward := h.progress (rs' := tabulate fun r =>
      (entry m.rs r).forward (entry m.rs p).dest (stationResult c m (entry m.rs p)).value)
    fun r => by rw [entry_tabulate]; exact RsEntry.progress_forward _ _ _
  have hrelease := hforward.release (p := p) (by rw [entry_tabulate, hself, hbusy]) (stationResult c m (entry m.rs p))
  simp only [entry_tabulate, hself] at hrelease
  exact hrelease

/-! ### Commit -/

/-- The slot at `head` holds record `i`, busy and ready: it is what Commit takes (40_engine_cycle R122). -/
structure HeadReady (m : Snapshot) (i : Record) : Prop where
  busy : (entry m.rob m.head).busy = true
  ready : (entry m.rob m.head).state = .ready
  instr : (entry m.rob m.head).instr = some i

/-- What the buffers are once the slot at `head` has retired without a flush (40_engine_cycle R123, R124, R126). -/
structure Retired (m m' : Snapshot) : Prop where
  rs : m'.rs = m.rs
  rob : m'.rob = setEntry m.rob m.head emptyRob
  head : m'.head = m.head + 1
  tail : m'.tail = m.tail
  pc : m'.pc = m.pc
  rst : ∀ d, entry m'.rst d = if entry m.rst d = some m.head then none else entry m.rst d

theorem writesRename_of_isBranch {op : Op} (h : op.isBranch = true) : op.writesRename = false := by
  cases op <;> simp_all [Op.isBranch, Op.writesRename]

theorem ne_sw_of_writesRename {op : Op} (h : op.writesRename = true) : op ≠ .sw := by
  rintro rfl
  exact Bool.noConfusion h

theorem destOf_of_not_branch {i : Record} (h : i.op.isBranch = false) : destOf i = some i.rd := by simp [destOf, h]

theorem HeadReady.claims {m : Snapshot} {i : Record} (hi : HeadReady m i) {prog : List Record}
    (h : PipelineInv prog m) {d : RegIx} (hd : entry m.rst d = some m.head) : i.op.writesRename = true ∧ i.rd = d := by
  obtain ⟨-, i', hi', hw, hrd⟩ := renamingWriter_iff.mp (h.youngest hd).1
  obtain rfl : i = i' := Option.some.inj (hi.instr.symm.trans hi')
  exact ⟨hw, hrd⟩

theorem HeadReady.retired_of_branch {m : Snapshot} {i : Record} (hi : HeadReady m i) {prog : List Record}
    (h : PipelineInv prog m) (hop : i.op.isBranch = true) : Retired m (retireHead m (entry m.rob m.head) i) := by
  refine ⟨rfl, rfl, rfl, rfl, rfl, fun d => (if_neg fun hd => ?_).symm⟩
  obtain ⟨hw, -⟩ := hi.claims h hd
  simp [writesRename_of_isBranch hop] at hw

theorem HeadReady.retired_of_not_branch {m : Snapshot} {i : Record} (hi : HeadReady m i) {prog : List Record}
    (h : PipelineInv prog m) (c : Config) (hop : i.op.isBranch = false) :
    Retired m (retireHead (commitWrite c m (entry m.rob m.head) i) (entry m.rob m.head) i) := by
  obtain ⟨i', hi', hdest⟩ := h.record hi.busy
  obtain rfl : i = i' := Option.some.inj (hi.instr.symm.trans hi')
  rw [commitWrite_eq c m _ i (hdest.trans (destOf_of_not_branch hop))]
  refine ⟨rfl, rfl, rfl, rfl, rfl, fun d => ?_⟩
  rw [retireHead_rst]
  by_cases hclear : (i.op ≠ .sw ∨ c.storeCommitWritesRd = true) ∧ entry m.rst i.rd = some m.head
  · rw [if_pos hclear]
    obtain ⟨-, hclear⟩ := hclear
    by_cases hd : d = i.rd
    · rw [hd, entry_setEntry_same, if_pos hclear]
    · rw [entry_setEntry_ne _ _ hd, if_neg fun hown => hd (hi.claims h hown).2.symm]
  · rw [if_neg hclear]
    refine (if_neg fun hown => hclear ?_).symm
    obtain ⟨hw, rfl⟩ := hi.claims h hown
    exact ⟨.inl (ne_sw_of_writesRename hw), hown⟩

/-- Under the invariant Commit does nothing, retires the head or flushes. -/
theorem PipelineInv.commit_cases {prog : List Record} {m : Snapshot} (h : PipelineInv prog m) (c : Config) :
    commitStage c m = m ∨
      ∃ i, HeadReady m i ∧
        (Retired m (commitStage c m) ∨
          (i.op.isBranch = true ∧ (entry m.rob m.head).shouldBranch = true ∧
            commitStage c m = commitMispredicted m (entry m.rob m.head) i)) := by
  rcases commitStage_cases c m with
    ⟨-, heq⟩ | ⟨hb, hr, i, hi, ⟨hop, heq⟩ | ⟨hop, -, heq⟩ | ⟨hop, hsb, heq⟩⟩
  · exact .inl heq
  · exact .inr ⟨i, ⟨hb, hr, hi⟩, .inl (heq ▸ HeadReady.retired_of_not_branch ⟨hb, hr, hi⟩ h c hop)⟩
  · exact .inr ⟨i, ⟨hb, hr, hi⟩, .inl (heq ▸ HeadReady.retired_of_branch ⟨hb, hr, hi⟩ h hop)⟩
  · exact .inr ⟨i, ⟨hb, hr, hi⟩, .inr ⟨hop, hsb, heq⟩⟩

section
variable {m m' : Snapshot} (hm' : Retired m m')
include hm'

theorem Retired.entry_rob_ne {b : RobIx} (hb : b ≠ m.head) : entry m'.rob b = entry m.rob b := by
  rw [hm'.rob, entry_setEntry_ne _ _ hb]

theorem Retired.busy_iff {b : RobIx} :
    (entry m'.rob b).busy = true ↔ b ≠ m.head ∧ (entry m.rob b).busy = true := by
  by_cases hb : b = m.head
  · simp [hm'.rob, hb, emptyRob]
  · simp [hm'.entry_rob_ne hb, hb]

theorem Retired.renamingWriter_iff {d : RegIx} {b : RobIx} :
    renamingWriter m' d b = true ↔ b ≠ m.head ∧ renamingWriter m d b = true := by
  by_cases hb : b = m.head
  · simp [renamingWriter, hm'.rob, hb, emptyRob]
  · simp [renamingWriter_congr (m' := m') (m := m) (d := d) (congrArg RobEntry.busy (hm'.entry_rob_ne hb))
      (congrArg RobEntry.instr (hm'.entry_rob_ne hb)), hb]

theorem Retired.age_succ {b : RobIx} (hb : b ≠ m.head) : age m' b + 1 = age m b := by
  rw [age_eq, age_eq, hm'.head, ageFrom_succ hb]

end

theorem Retired.fifo {prog : List Record} {m m' : Snapshot} {i : Record} (hm' : Retired m m')
    (h : PipelineInv prog m) (hi : HeadReady m i) : ∃ n, Fifo (n + 1) m ∧ Fifo n m' := by
  obtain ⟨n, hfifo⟩ := fifoInv_iff.mp h.fifo
  obtain ⟨n, rfl⟩ := Nat.exists_eq_succ_of_ne_zero (hfifo.head_busy_iff.mp hi.busy).ne'
  exact ⟨n, hfifo, hfifo.retire hm'.head hm'.tail hm'.rob⟩

/-- A station's slot has no result yet, so it is not the ready one at `head`. -/
theorem HeadReady.dest_ne {prog : List Record} {m : Snapshot} {i : Record} (hi : HeadReady m i)
    (h : PipelineInv prog m) {r : RsIx} (hr : (entry m.rs r).busy = true) : (entry m.rs r).dest ≠ m.head := fun hd => by
  have hx := h.slot_executing hr
  rw [hd, hi.ready] at hx
  exact RobState.noConfusion hx

theorem Retired.pipelineInv {prog : List Record} {m m' : Snapshot} {i : Record} (hm' : Retired m m')
    (h : PipelineInv prog m) (hi : HeadReady m i) : PipelineInv prog m' where
  fifo := by
    obtain ⟨n, -, hfifo⟩ := hm'.fifo h hi
    exact fifoInv_iff.mpr ⟨n, hfifo⟩
  canonical := by
    refine ⟨fun b hb => ?_, fun b hb => ?_, fun r hr => ?_⟩
    · obtain ⟨hne, hb⟩ := hm'.busy_iff.mp hb
      rw [hm'.entry_rob_ne hne]
      exact h.canonical.1 b hb
    · by_cases hne : b = m.head
      · rw [hm'.rob, hne, entry_setEntry_same]
      · rw [hm'.entry_rob_ne hne] at hb ⊢
        exact h.canonical.2.1 b hb
    · rw [hm'.rs] at hr ⊢
      exact h.canonical.2.2 r hr
  slots := fun b hb => by
    obtain ⟨hne, hb⟩ := hm'.busy_iff.mp hb
    rw [hm'.entry_rob_ne hne]
    exact h.slots b hb
  pairs := by
    rw [PairInv, hm'.rs]
    refine ⟨fun r hr => ?_, h.pairs.2.1, fun b hb hx => ?_⟩
    · rw [hm'.entry_rob_ne (hi.dest_ne h hr)]
      exact h.pairs.1 r hr
    · obtain ⟨hne, hb⟩ := hm'.busy_iff.mp hb
      rw [hm'.entry_rob_ne hne] at hx
      exact h.station hb hx
  classes := by
    rw [ClassInv, hm'.rs]
    exact h.classes
  renames := by
    refine renameInv_iff.mpr fun d => ⟨fun hd b => ?_, fun q hq => ?_⟩
    · rw [Bool.eq_false_iff, ne_eq, hm'.renamingWriter_iff]
      rintro ⟨hne, hb⟩
      rw [hm'.rst] at hd
      split at hd
      next hown =>
        have hage := (h.youngest hown).2 b hb
        rw [age_eq m m.head, ageFrom_self, Nat.le_zero, age_eq, ageFrom_eq_zero_iff] at hage
        exact hne hage
      next => simp [h.no_writer hd b] at hb
    · rw [hm'.rst] at hq
      split at hq
      · cases hq
      next hown =>
        obtain ⟨hwriter, hmax⟩ := h.youngest hq
        have hqne : q ≠ m.head := fun he => hown (he ▸ hq)
        refine ⟨hm'.renamingWriter_iff.mpr ⟨hqne, hwriter⟩, fun b hb => ?_⟩
        obtain ⟨hbne, hb⟩ := hm'.renamingWriter_iff.mp hb
        have := hmax b hb
        have := hm'.age_succ hqne
        have := hm'.age_succ hbne
        omega
  countdown := by
    rw [CountdownInv, hm'.rs]
    exact h.countdown
  fetches := by
    rw [FetchInv, hm'.rs]
    intro r hr
    rw [hm'.entry_rob_ne (hi.dest_ne h hr)]
    exact h.fetches r hr

theorem quiescent_commitMispredicted (m : Snapshot) (e : RobEntry) (i : Record) :
    Quiescent (commitMispredicted m e i) := ⟨rfl, rfl, rfl, rfl⟩

theorem PipelineInv.commit {prog : List Record} {m : Snapshot} (h : PipelineInv prog m) (c : Config) :
    PipelineInv prog (commitStage c m) := by
  rcases h.commit_cases c with heq | ⟨i, hi, hretired | ⟨-, -, heq⟩⟩
  · rwa [heq]
  · exact hretired.pipelineInv h hi
  · rw [heq]
    exact .of_quiescent prog (quiescent_commitMispredicted m _ i)

/-! ### Issue -/

theorem ne_tail_of_busy {m : Snapshot} (hfree : (entry m.rob m.tail).busy = false) {b : RobIx}
    (hb : (entry m.rob b).busy = true) : b ≠ m.tail := by
  rintro rfl
  simp [hfree] at hb

section
variable {prog : List Record} {m : Snapshot} (h : PipelineInv prog m) (hfree : (entry m.rob m.tail).busy = false)
include h hfree

theorem PipelineInv.dest_ne_tail {r : RsIx} (hr : (entry m.rs r).busy = true) : (entry m.rs r).dest ≠ m.tail :=
  ne_tail_of_busy hfree (h.slot_busy hr)

/-- The record issued now is the youngest one in flight. -/
theorem PipelineInv.age_le_tail {b : RobIx} (hb : (entry m.rob b).busy = true) : age m b ≤ age m m.tail := by
  obtain ⟨n, hfifo⟩ := fifoInv_iff.mp h.fifo
  rw [age_eq, age_eq, hfifo.ageFrom_tail (hfifo.lt_of_tail_free hfree)]
  exact ((hfifo.busy b).mp hb).le

end

section
variable (c : Config) (m : Snapshot) (i : Record) (r : RsIx)

theorem dispatch_entry_rob_ne {b : RobIx} (hb : b ≠ m.tail) : entry (dispatch c m i r).rob b = entry m.rob b :=
  entry_setEntry_ne _ _ hb

theorem dispatch_entry_rob_tail : entry (dispatch c m i r).rob m.tail = issuedRob i := entry_setEntry_same _ _ _

theorem dispatch_entry_rs_ne {p : RsIx} (hp : p ≠ r) : entry (dispatch c m i r).rs p = entry m.rs p :=
  entry_setEntry_ne _ _ hp

theorem dispatch_entry_rs_same : entry (dispatch c m i r).rs r = issuedRs c m i := entry_setEntry_same _ _ _

theorem dispatch_writer_ne {d : RegIx} {b : RobIx} (hb : b ≠ m.tail) :
    renamingWriter (dispatch c m i r) d b = renamingWriter m d b :=
  renamingWriter_congr (congrArg RobEntry.busy (dispatch_entry_rob_ne c m i r hb))
    (congrArg RobEntry.instr (dispatch_entry_rob_ne c m i r hb))

theorem dispatch_writer_tail {d : RegIx} :
    renamingWriter (dispatch c m i r) d m.tail = true ↔ i.op.writesRename = true ∧ i.rd = d := by
  rw [renamingWriter_iff, dispatch_entry_rob_tail]
  simp [issuedRob]

/-- After an Issue a register is claimed by the new slot, where the record claims it, or by what claimed it before. -/
theorem dispatch_entry_rst (d : RegIx) :
    entry (dispatch c m i r).rst d =
      if i.op.writesRename = true ∧ i.rd = d then some m.tail else entry m.rst d := by
  rw [dispatch_rst]
  by_cases hw : i.op.writesRename = true
  · simp [hw, entry_setEntry, eq_comm]
  · simp [hw]

end

theorem PipelineInv.dispatch_renames {prog : List Record} {m : Snapshot} (h : PipelineInv prog m) (c : Config)
    (i : Record) (r : RsIx) (hfree : (entry m.rob m.tail).busy = false) : RenameInv (dispatch c m i r) := by
  have hold : ∀ {d b}, renamingWriter m d b = true → b ≠ m.tail := fun hb =>
    ne_tail_of_busy hfree (renamingWriter_iff.mp hb).1
  refine renameInv_iff.mpr fun d => ?_
  rw [dispatch_entry_rst]
  by_cases hclaim : i.op.writesRename = true ∧ i.rd = d
  · rw [if_pos hclaim]
    refine ⟨fun hd => (Option.some_ne_none _ hd).elim, fun q hq => ?_⟩
    obtain rfl : m.tail = q := Option.some.inj hq
    refine ⟨(dispatch_writer_tail c m i r).mpr hclaim, fun b hb => ?_⟩
    by_cases hbt : b = m.tail
    · rw [hbt]
    · rw [dispatch_writer_ne c m i r hbt] at hb
      exact h.age_le_tail hfree (renamingWriter_iff.mp hb).1
  · rw [if_neg hclaim]
    refine ⟨fun hd b => ?_, fun q hq => ?_⟩
    · by_cases hbt : b = m.tail
      · rw [hbt, Bool.eq_false_iff, ne_eq, dispatch_writer_tail]
        exact hclaim
      · rw [dispatch_writer_ne c m i r hbt]
        exact h.no_writer hd b
    · obtain ⟨hwriter, hmax⟩ := h.youngest hq
      refine ⟨(dispatch_writer_ne c m i r (hold hwriter)).trans hwriter, fun b hb => ?_⟩
      by_cases hbt : b = m.tail
      · rw [hbt, dispatch_writer_tail] at hb
        exact absurd hb hclaim
      · rw [dispatch_writer_ne c m i r hbt] at hb
        exact hmax b hb

theorem PipelineInv.dispatch {prog : List Record} {m : Snapshot} (h : PipelineInv prog m) (c : Config) {i : Record}
    {r : RsIx} (hfetch : prog[m.pc]? = some i) (hstation : freeStation m.rs (opClass i.op) = some r)
    (hfree : (entry m.rob m.tail).busy = false) : PipelineInv prog (dispatch c m i r) where
  fifo := by
    obtain ⟨n, hfifo⟩ := fifoInv_iff.mp h.fifo
    exact fifoInv_iff.mpr ⟨n + 1, hfifo.claim hfree (e := issuedRob i) rfl rfl rfl rfl⟩
  canonical := by
    refine ⟨fun b hb => ?_, fun b hb => ?_, fun p hp => ?_⟩
    · by_cases hbt : b = m.tail
      · rw [hbt, dispatch_entry_rob_tail]
        exact RobState.noConfusion
      · rw [dispatch_entry_rob_ne c m i r hbt] at hb ⊢
        exact h.canonical.1 b hb
    · by_cases hbt : b = m.tail
      · rw [hbt, dispatch_entry_rob_tail] at hb
        exact Bool.noConfusion hb
      · rw [dispatch_entry_rob_ne c m i r hbt] at hb ⊢
        exact h.canonical.2.1 b hb
    · by_cases hpr : p = r
      · rw [hpr, dispatch_entry_rs_same] at hp
        exact Bool.noConfusion hp
      · rw [dispatch_entry_rs_ne c m i r hpr] at hp ⊢
        exact h.canonical.2.2 p hp
  slots := fun b hb => by
    by_cases hbt : b = m.tail
    · rw [hbt, dispatch_entry_rob_tail]
      rfl
    · rw [dispatch_entry_rob_ne c m i r hbt] at hb ⊢
      exact h.slots b hb
  pairs := by
    refine ⟨fun p hp => ?_, fun p p' hp hp' hd => ?_, fun b hb hx => ?_⟩
    · by_cases hpr : p = r
      · rw [hpr, dispatch_entry_rs_same]
        have hslot : entry (Machine.dispatch c m i r).rob (issuedRs c m i).dest = issuedRob i :=
          dispatch_entry_rob_tail c m i r
        rw [hslot]
        exact ⟨rfl, rfl, rfl⟩
      · rw [dispatch_entry_rs_ne c m i r hpr] at hp ⊢
        rw [dispatch_entry_rob_ne c m i r (h.dest_ne_tail hfree hp)]
        exact h.pairs.1 p hp
    · by_cases hpr : p = r <;> by_cases hpr' : p' = r
      · rw [hpr, hpr']
      · rw [dispatch_entry_rs_ne c m i r hpr'] at hp' hd
        rw [hpr, dispatch_entry_rs_same] at hd
        exact absurd hd.symm (h.dest_ne_tail hfree hp')
      · rw [dispatch_entry_rs_ne c m i r hpr] at hp hd
        rw [hpr', dispatch_entry_rs_same] at hd
        exact absurd hd (h.dest_ne_tail hfree hp)
      · rw [dispatch_entry_rs_ne c m i r hpr] at hp hd
        rw [dispatch_entry_rs_ne c m i r hpr'] at hp' hd
        exact h.pairs.2.1 p p' hp hp' hd
    · by_cases hbt : b = m.tail
      · exact ⟨r, by rw [dispatch_entry_rs_same]; exact ⟨rfl, hbt.symm⟩⟩
      · rw [dispatch_entry_rob_ne c m i r hbt] at hb hx
        obtain ⟨p, hp, hd⟩ := h.station hb hx
        have hpr : p ≠ r := fun he => by simp [he, (freeStation_some hstation).2] at hp
        exact ⟨p, by rw [dispatch_entry_rs_ne c m i r hpr]; exact ⟨hp, hd⟩⟩
  classes := fun p hp => by
    by_cases hpr : p = r
    · rw [hpr, dispatch_entry_rs_same]
      exact (freeStation_some hstation).1
    · rw [dispatch_entry_rs_ne c m i r hpr] at hp ⊢
      exact h.classes p hp
  renames := h.dispatch_renames c i r hfree
  countdown := fun p hp => by
    by_cases hpr : p = r
    · rw [hpr, dispatch_entry_rs_same]
      exact ⟨le_rfl, fun _ => rfl⟩
    · rw [dispatch_entry_rs_ne c m i r hpr] at hp ⊢
      exact h.countdown p hp
  fetches := fun p hp => by
    by_cases hpr : p = r
    · rw [hpr, dispatch_entry_rs_same]
      have hslot : entry (Machine.dispatch c m i r).rob (issuedRs c m i).dest = issuedRob i :=
        dispatch_entry_rob_tail c m i r
      rw [hslot]
      exact ⟨(List.getElem?_eq_some_iff.mp hfetch).1, hfetch⟩
    · rw [dispatch_entry_rs_ne c m i r hpr] at hp ⊢
      rw [dispatch_entry_rob_ne c m i r (h.dest_ne_tail hfree hp)]
      exact h.fetches p hp

/-! ### The cycle and the clock edge -/

theorem PipelineInv.keptByStages (c : Config) (prog : List Record) : KeptByStages c prog (PipelineInv prog) where
  commit _ h := h.commit c
  broadcast _ _ hp h := h.broadcast c hp
  execute _ h := h.execute
  dispatch _ _ _ hfetch hstation hfree h := h.dispatch c hfetch hstation hfree
  bubble _ h := ⟨h.fifo, h.canonical, h.slots, h.pairs, h.classes, h.renames, h.countdown, h.fetches⟩
  endCycle _ h := ⟨h.fifo, h.canonical, h.slots, h.pairs, h.classes, h.renames, h.countdown, h.fetches⟩

end Sys2Proof.Machine
end

section
/-! PROOF. The check of `load_program` (30_encoding R94, 60_exceptions R262): what it answers for one record and for a
stream, and that a clock edge keeps the pipeline invariant, whose stream is only ever one the check accepted. -/

namespace Sys2Proof

/-- A checked record as the host wrote it. -/
def Record.toRaw (r : Record) : RawRecord := ⟨r.op, r.rd.val, r.rs1.val, r.rs2.val, r.off⟩

end Sys2Proof

namespace Sys2Proof.Machine

/-! ### One record -/

/-- A register index is out of range and refused, or in range and taken as it is. -/
theorem toRegIx_cases (x : Int) :
    (toRegIx x = none ∧ regInRange x = false) ∨ ∃ d : RegIx, toRegIx x = some d ∧ (d.val : Int) = x ∧
      regInRange x = true := by
  unfold toRegIx regInRange
  split
  next h =>
    obtain ⟨hlow, hhigh⟩ := h
    exact .inr ⟨_, rfl, Int.toNat_of_nonneg hlow, by simp [hlow, hhigh]⟩
  next h => exact .inl ⟨rfl, by simpa using h⟩

/-- The reason `e` is the first clause of 30_encoding R94 that the record fails at index `i`; any field out of range is
a reason of clause (a). -/
def RefusedFor (i : Nat) (r : RawRecord) (e : LoadError) : Prop :=
  (e = .regIndexOutOfRange i .rd ∧ regInRange r.rd = false) ∨
    (e = .regIndexOutOfRange i .rs1 ∧ regInRange r.rs1 = false) ∨
    (e = .regIndexOutOfRange i .rs2 ∧ regInRange r.rs2 = false) ∨
    (regInRange r.rd = true ∧ regInRange r.rs1 = true ∧ regInRange r.rs2 = true ∧
      ((e = .branchOffsetMissing i ∧ r.offsetPresent = false) ∨
        (e = .branchTargetNegative i ∧ r.offsetPresent = true ∧ r.targetNatural i = false)))

/-- Everything the check of one record can answer: the record with its indices, or the first clause it fails. -/
theorem checkRecord_cases (i : Nat) (r : RawRecord) :
    (r.wf i = true ∧ ∃ q, checkRecord i r = .ok q ∧ q.toRaw = r ∧ q.wf i = true) ∨
      (r.wf i = false ∧ ∃ e, checkRecord i r = .error e ∧ RefusedFor i r e) := by
  obtain ⟨op, rd, rs1, rs2, off⟩ := r
  rcases toRegIx_cases rd with ⟨h1, hrd⟩ | ⟨d, h1, rfl, hrd⟩
  · exact .inr ⟨by simp [RawRecord.wf, hrd], _, by simp [checkRecord, h1], .inl ⟨rfl, hrd⟩⟩
  rcases toRegIx_cases rs1 with ⟨h2, hrs1⟩ | ⟨d1, h2, rfl, hrs1⟩
  · exact .inr ⟨by simp [RawRecord.wf, hrs1], _, by simp [checkRecord, h1, h2], .inr (.inl ⟨rfl, hrs1⟩)⟩
  rcases toRegIx_cases rs2 with ⟨h3, hrs2⟩ | ⟨d2, h3, rfl, hrs2⟩
  · exact .inr ⟨by simp [RawRecord.wf, hrs2], _, by simp [checkRecord, h1, h2, h3], .inr (.inr (.inl ⟨rfl, hrs2⟩))⟩
  cases hop : op.isBranch with
  | false =>
    refine .inl ⟨?_, ⟨op, d, d1, d2, off⟩, by simp [checkRecord, h1, h2, h3, hop], rfl, by simp [Record.wf, hop]⟩
    simp [RawRecord.wf, RawRecord.offsetPresent, RawRecord.targetNatural, hrd, hrs1, hrs2, hop]
  | true =>
    cases off with
    | none =>
      refine .inr ⟨by simp [RawRecord.wf, RawRecord.offsetPresent, hop], .branchOffsetMissing i, ?_,
        .inr (.inr (.inr ⟨hrd, hrs1, hrs2, .inl ⟨rfl, by simp [RawRecord.offsetPresent, hop]⟩⟩))⟩
      simp [checkRecord, h1, h2, h3, hop]
    | some o =>
      by_cases ho : 0 ≤ (i : Int) + 1 + o
      · refine .inl ⟨?_, ⟨op, d, d1, d2, some o⟩, by simp [checkRecord, h1, h2, h3, hop, ho], rfl, ?_⟩
        · simp [RawRecord.wf, RawRecord.offsetPresent, RawRecord.targetNatural, hrd, hrs1, hrs2, ho]
        · simp [Record.wf, ho]
      · refine .inr ⟨by simp [RawRecord.wf, RawRecord.targetNatural, hop, ho], .branchTargetNegative i,
          by simp [checkRecord, h1, h2, h3, hop, ho], .inr (.inr (.inr ⟨hrd, hrs1, hrs2, .inr ⟨rfl, ?_, ?_⟩⟩))⟩
        · simp [RawRecord.offsetPresent]
        · simp [RawRecord.targetNatural, hop, ho]

theorem checkRecord_ok {i : Nat} {r : RawRecord} {q : Record} (h : checkRecord i r = .ok q) :
    r.wf i = true ∧ q.toRaw = r ∧ q.wf i = true := by
  rcases checkRecord_cases i r with ⟨hwf, q', hok, hraw, hq⟩ | ⟨-, e, he, -⟩
  · obtain rfl : q = q' := Except.ok.inj (h.symm.trans hok)
    exact ⟨hwf, hraw, hq⟩
  · cases h.symm.trans he

theorem checkRecord_error {i : Nat} {r : RawRecord} {e : LoadError} (h : checkRecord i r = .error e) :
    r.wf i = false ∧ RefusedFor i r e := by
  rcases checkRecord_cases i r with ⟨-, q, hok, -⟩ | ⟨hwf, e', he, hreason⟩
  · cases h.symm.trans hok
  · obtain rfl : e = e' := Except.error.inj (h.symm.trans he)
    exact ⟨hwf, hreason⟩

/-! ### The stream -/

/-- Everything the check of the records from index `i` on can answer: all of them, or the refusal of the first that
fails. -/
theorem checkFrom_cases (i : Nat) (p : List RawRecord) :
    (∃ q, checkFrom i p = .ok q ∧ q.map Record.toRaw = p ∧ (∀ j, (h : j < p.length) → p[j].wf (i + j) = true) ∧
      ∀ j, (h : j < q.length) → q[j].wf (i + j) = true) ∨
    ∃ e j, checkFrom i p = .error e ∧ ∃ h : j < p.length, p[j].wf (i + j) = false ∧ RefusedFor (i + j) p[j] e ∧
      ∀ k, (hk : k < p.length) → k < j → p[k].wf (i + k) = true := by
  induction p generalizing i with
  | nil => exact .inl ⟨[], rfl, rfl, fun j h => (Nat.not_lt_zero j h).elim, fun j h => (Nat.not_lt_zero j h).elim⟩
  | cons r rest ih =>
    cases hr : checkRecord i r with
    | error e =>
      obtain ⟨hwf, hreason⟩ := checkRecord_error hr
      exact .inr ⟨e, 0, by simp [checkFrom, hr], Nat.zero_lt_succ _, hwf, hreason,
        fun k _ hk => (Nat.not_lt_zero k hk).elim⟩
    | ok q =>
      obtain ⟨hwf, hraw, hq⟩ := checkRecord_ok hr
      have hplace : ∀ j, i + 1 + j = i + (j + 1) := fun j => by omega
      rcases ih (i + 1) with ⟨qs, hok, hmap, hall, hqs⟩ | ⟨e, j, he, hj, hbad, hreason, hbefore⟩
      · refine .inl ⟨q :: qs, by simp [checkFrom, hr, hok], by rw [List.map_cons, hraw, hmap], fun j hj => ?_,
          fun j hj => ?_⟩
        · cases j with
          | zero => exact hwf
          | succ j => exact hplace j ▸ hall j (Nat.lt_of_succ_lt_succ hj)
        · cases j with
          | zero => exact hq
          | succ j => exact hplace j ▸ hqs j (Nat.lt_of_succ_lt_succ hj)
      · refine .inr ⟨e, j + 1, by simp [checkFrom, hr, he], Nat.succ_lt_succ hj, hplace j ▸ hbad, hplace j ▸ hreason,
          fun k hk hkj => ?_⟩
        cases k with
        | zero => exact hwf
        | succ k => exact hplace k ▸ hbefore k (Nat.lt_of_succ_lt_succ hk) (Nat.lt_of_succ_lt_succ hkj)

theorem checkProgram_cases (p : List RawRecord) :
    (WfProgram p ∧ ∃ q, checkProgram p = .ok q ∧ q.map Record.toRaw = p ∧ WfStream q) ∨
      ∃ e i, checkProgram p = .error e ∧ ∃ h : i < p.length, p[i].wf i = false ∧ RefusedFor i p[i] e ∧
        ∀ j, (hj : j < p.length) → j < i → p[j].wf j = true := by
  have h := checkFrom_cases 0 p
  simp only [Nat.zero_add] at h
  rcases h with ⟨q, hok, hraw, hp, hq⟩ | ⟨e, i, herr, hfirst⟩
  · exact .inl ⟨hp, q, hok, hraw, hq⟩
  · exact .inr ⟨e, i, herr, hfirst⟩

theorem wfStream_of_checkProgram {p : List RawRecord} {q : List Record} (h : checkProgram p = .ok q) : WfStream q := by
  rcases checkProgram_cases p with ⟨-, q', hok, -, hq⟩ | ⟨e, -, herr, -⟩
  · obtain rfl : q = q' := Except.ok.inj (h.symm.trans hok)
    exact hq
  · cases h.symm.trans herr

theorem checkProgram_of_wf {p : List RawRecord} (h : WfProgram p) :
    ∃ q, checkProgram p = .ok q ∧ q.map Record.toRaw = p ∧ WfStream q := by
  rcases checkProgram_cases p with ⟨-, hok⟩ | ⟨e, i, -, hi, hbad, -⟩
  · exact hok
  · simp [h i hi] at hbad

theorem exec_loadProgram (s : State) (p : List RawRecord) : exec (.loadProgram p) s = .next (loadEngine s p) := rfl

theorem loadEngine_of_ok {s : State} {p : List RawRecord} {q : List Record} (h : checkProgram p = .ok q) :
    loadEngine s p = installProgram s q := by
  rw [loadEngine, h]

theorem loadEngine_of_error {s : State} {p : List RawRecord} {e : LoadError} (h : checkProgram p = .error e) :
    loadEngine s p = { s with loadError := some e } := by
  rw [loadEngine, h]

/-- Settles O36: the check accepts the stream, whose records are the host's with their indices in range. -/
theorem loadInstallsWellFormedStreams : Obligations.LoadInstallsWellFormedStreams := by
  intro s p hp
  obtain ⟨q, hok, hraw, hq⟩ := checkProgram_of_wf hp
  exact ⟨installProgram s q, by rw [exec_loadProgram, loadEngine_of_ok hok], rfl, hraw, hq⟩

/-- Settles O37: the check refuses the stream at the first record that fails, for the first clause it fails. -/
theorem loadRefusesMalformedStreams : Obligations.LoadRefusesMalformedStreams := by
  intro s p hp
  rcases checkProgram_cases p with ⟨hwf, -⟩ | ⟨e, i, herr, hi, hbad, hreason, hbefore⟩
  · exact absurd hwf hp
  · exact ⟨i, hi, e, hbad, hbefore, by rw [exec_loadProgram, loadEngine_of_error herr], hreason⟩

/-! ### The stream after a clock edge -/

theorem Edge.wfStream {s t : State} (he : Edge s t) (h : WfStream s.prog) : WfStream t.prog := by
  cases he with
  | idle => exact h
  | cycle => exact h
  | undo => exact h
  | reset => exact h
  | construct => exact fun i hi => (Nat.not_lt_zero i hi).elim
  | load _ hq => exact wfStream_of_checkProgram hq

/-- Settles O42: the initialising events leave nothing in flight, and a cycle keeps the invariant stage by stage. -/
theorem everyEdgeKeepsThePipelineInvariant : Obligations.EveryEdgeKeepsThePipelineInvariant := by
  intro s t hinv hstep
  obtain ⟨hwf, hinv⟩ := engineInv_iff.mp hinv
  have he := edge_of_step hstep
  refine engineInv_iff.mpr ⟨he.wfStream hwf, he.keeps_snapshots (P := PipelineInv) ?_ ?_ ?_ hinv⟩
  · exact fun prog => .of_quiescent prog (quiescent_fresh _)
  · exact fun prog => .of_quiescent prog (quiescent_fresh _)
  · exact fun m _ hm => (PipelineInv.keptByStages s.cfg s.prog).nextLive hm

/-! ### What the invariant says of branches and of operands -/

theorem branchTarget_of_natural {pc : Nat} {o : Int} (h : 0 ≤ (pc : Int) + 1 + o) :
    branchTarget pc (some o) = ((pc : Int) + 1 + o).toNat := by
  simp [branchTarget, h]

theorem resultOf_targetPc_of_branch (c : Config) {op : Op} (h : op.isBranch = true) (a b : Val) (pc : Nat)
    (off : Option Int) : (resultOf c op a b pc off).targetPc = branchTarget pc off := by
  rcases (isBranch_iff op).mp h with rfl | rfl <;> rfl

theorem Record.wf_of_branch {i : Nat} {r : Record} (h : r.wf i = true) (hop : r.op.isBranch = true) :
    ∃ o, r.off = some o ∧ 0 ≤ (i : Int) + 1 + o := by
  cases hoff : r.off <;> simp [Record.wf, hop, hoff] at h ⊢
  exact h

/-- Settles O49: the station's slot holds the record its `pc_issue` names ((I7)), which the stream's well-formedness
gives an offset and a natural target. -/
theorem branchTargetsAreNatural : Obligations.BranchTargetsAreNatural := by
  intro c s m r hinv hm hr hop
  obtain ⟨hwf, hinv⟩ := engineInv_iff.mp hinv
  have h := hinv m hm
  obtain ⟨i, hi, hiop⟩ := h.slot_instr hr
  obtain ⟨hlt, hfetch⟩ := h.fetches r hr
  have hat : s.prog[(entry m.rs r).pcIssue] = i := by
    rw [hi, List.getElem?_eq_getElem hlt] at hfetch
    exact Option.some.inj hfetch
  obtain ⟨o, ho, hnat⟩ := Record.wf_of_branch (hat ▸ hwf _ hlt) (hiop ▸ hop)
  refine ⟨i, o, hi, ho, hnat, ?_⟩
  rw [stationResult, resultOf_targetPc_of_branch c hop, hi, Option.bind_some, ho, branchTarget_of_natural hnat,
    Int.toNat_of_nonneg hnat]

/-- Settles O12: the status table can name no other slot than the youngest writer, whose slot has no result. -/
theorem consumersTagTheYoungestWriter : Obligations.ConsumersTagTheYoungestWriter := by
  intro c prog m d q hok hwriter hmax hexec
  have h := pipelineOk_iff.mp hok
  cases hd : entry m.rst d with
  | none => simp [h.no_writer hd q] at hwriter
  | some y =>
    obtain ⟨hy, hymax⟩ := h.youngest hd
    have hage : ageFrom m.head y = ageFrom m.head q := le_antisymm (hmax y hy) (hymax q hwriter)
    obtain rfl : y = q := by rw [← slotAt_ageFrom m.head y, hage, slotAt_ageFrom]
    rw [readOperand_of_pending c hd, if_neg (by simp [hexec])]

end Sys2Proof.Machine
end

section
/-! PROOF. The round trip of every instruction through its code (30_encoding R100, R103) and a packed word's through its
bytes (20_memory R73). -/

namespace Sys2Proof

theorem wordOfBytes_bytes (w : StreamWord) :
    wordOfBytes (w.extractLsb' 0 8) (w.extractLsb' 8 8) (w.extractLsb' 16 8) (w.extractLsb' 24 8) = w := by
  have := w.isLt
  apply BitVec.eq_of_toNat_eq
  simp only [wordOfBytes, append_toNat, extract_toNat]
  omega

theorem decodeStreamBytes_bytesOfWord (w : StreamWord) (rest : List Byte) :
    decodeStreamBytes (bytesOfWord w ++ rest) = .ok (decode (.word w), rest) := by
  simp only [bytesOfWord, List.cons_append, List.nil_append, decodeStreamBytes, wordOfBytes_bytes]

/-- An instruction is a record of the stream or a host command. -/
theorem Instr.record?_cases (i : Instr) : i.record? = none ∨ ∃ r, i.record? = some r ∧ i = .ofRecord r := by
  cases i with
  | add | sub | mul | div | lw | sw | beq | bne => exact .inr ⟨_, rfl, rfl⟩
  | nop | step | stepBack | reset | loadProgram => exact .inl rfl

@[simp] theorem Instr.record?_ofRecord (r : Record) : (Instr.ofRecord r).record? = some r := by
  obtain ⟨op, rd, rs1, rs2, off⟩ := r
  cases op <;> rfl

theorem encode_ofRecord (r : Record) : encode (.ofRecord r) = encodeStream r := by
  obtain ⟨op, rd, rs1, rs2, off⟩ := r
  cases op <;> rfl

/-- A host command's code is no packed word, and it decodes to the command. -/
theorem encode_command {i : Instr} (h : i.record? = none) :
    ∃ k p, encode i = some (.command k p) ∧ decode (.command k p) = i := by
  cases i with
  | add | sub | mul | div | lw | sw | beq | bne => cases h
  | nop => exact ⟨0, [], rfl, rfl⟩
  | step => exact ⟨1, [], rfl, rfl⟩
  | stepBack => exact ⟨2, [], rfl, rfl⟩
  | reset => exact ⟨3, [], rfl, rfl⟩
  | loadProgram p => exact ⟨4, p, rfl, rfl⟩

/-- Settles O1: a record through its packed word and that word's bytes, a host command through its code. -/
theorem instructionCodesRoundTrip : Obligations.InstructionCodesRoundTrip := by
  intro i hwf
  rcases i.record?_cases with hnone | ⟨r, hr, rfl⟩
  · obtain ⟨k, p, hcode, hdecode⟩ := encode_command hnone
    exact ⟨_, hcode, hdecode, fun w rest hw => by cases hw⟩
  · rw [Instr.wf, hr] at hwf
    obtain ⟨w, hw, hdecode⟩ := decodeWord_encodeRecord hwf
    have hword : decode (.word w) = .ofRecord r := congrArg Instr.ofRecord hdecode
    refine ⟨.word w, by rw [encode_ofRecord, encodeStream, hw, Option.map_some], hword, fun w' rest hw' => ?_⟩
    obtain rfl : w = w' := Code.word.inj hw'
    rw [decodeStreamBytes_bytesOfWord, hword]

/-! ### The command codes -/

theorem decode_command (k : CmdCode) (p : List RawRecord) :
    decode (.command k p) =
      if k.toNat = 1 then .step
      else if k.toNat = 2 then .stepBack
      else if k.toNat = 3 then .reset
      else if k.toNat = 4 then .loadProgram p
      else .nop := by
  show decodeCmd k p = _
  unfold decodeCmd
  split <;> simp_all

/-- Settles O4: each word is evaluated. -/
theorem workedWordsDecode : Obligations.WorkedWordsDecode := by
  refine ⟨?_, ?_, ?_, ?_, ?_⟩ <;> decide

/-- Settles O5: each code is a command, which has no record; every packed word has one. -/
theorem commandCodesDecode : Obligations.CommandCodesDecode := by
  refine ⟨fun k p => ⟨?_, decode_command k p⟩, fun w => Instr.record?_ofRecord _⟩
  rcases Machine.decodeCmd_cases k p with h | h | h | h | h <;> rw [decode, h] <;> rfl

end Sys2Proof
end

section
/-! PROOF. The trace log: in-order commit (70_reset_and_hazards R295) as a replay of the log, and the counters that
agree with it ((I8) of R294). -/

namespace Sys2Proof.Machine

/-! ### What the stages leave of a busy slot's record -/

theorem entry_broadcast_rob_busy (c : Config) (m : Snapshot) (p : RsIx) (b : RobIx) :
    (entry (broadcast c m p).rob b).busy = (entry m.rob b).busy := by
  rw [broadcast_eq_release, release_rob_busy]

section Fields
variable (c : Config) (m : Snapshot) (e : RobEntry) (i : Record)

@[simp] theorem commitWrite_rs : (commitWrite c m e i).rs = m.rs := by rw [commitWrite_frame]
@[simp] theorem commitWrite_rob : (commitWrite c m e i).rob = m.rob := by rw [commitWrite_frame]
@[simp] theorem commitWrite_pc : (commitWrite c m e i).pc = m.pc := by rw [commitWrite_frame]
@[simp] theorem commitWrite_bubbles : (commitWrite c m e i).bubbles = m.bubbles := by rw [commitWrite_frame]
@[simp] theorem commitWrite_flushes : (commitWrite c m e i).flushes = m.flushes := by rw [commitWrite_frame]

end Fields

/-! ### Replaying a log -/

/-- A log replays event by event: its second part from what its first part leaves in flight. -/
theorem replay_append (q : List (Record × RobIx)) (es es' : List TraceEvent) :
    replay q (es ++ es') = (replay q es).bind fun q' => replay q' es' := by
  induction es generalizing q with
  | nil => rfl
  | cons ev es ih =>
    cases ev with
    | issue pc i r b => exact ih _
    | commit b i v flushed =>
      cases q with
      | nil => rfl
      | cons x rest =>
        simp only [List.cons_append, replay]
        split
        · exact ih _
        · rfl

/-- What one more event leaves in flight. -/
theorem replay_snoc {log : List TraceEvent} {q : List (Record × RobIx)} (h : replay [] log = some q) (ev : TraceEvent) :
    replay [] (log ++ [ev]) = replay q [ev] := by
  rw [replay_append, h, Option.bind_some]

/-! ### The records in flight, by age -/

/-- The record of the slot `k` places after `head`, if that slot is busy. -/
def slotRecord (m : Snapshot) (k : Nat) : Option (Record × RobIx) :=
  if (entry m.rob (slotAt m.head k)).busy then
    (entry m.rob (slotAt m.head k)).instr.map fun i => (i, slotAt m.head k)
  else none

theorem inFlight_eq_range (m : Snapshot) : inFlight m = (List.range 8).filterMap (slotRecord m) := by
  rw [← List.map_coe_finRange_eq_range, List.filterMap_map]
  rfl

/-- The slots past the last busy one add nothing. -/
theorem Fifo.inFlight_eq {n : Nat} {m : Snapshot} (h : Fifo n m) :
    inFlight m = (List.range n).filterMap (slotRecord m) := by
  have hsplit : List.range 8 = List.range n ++ (List.range (8 - n)).map (n + ·) := by
    rw [← List.range_add, Nat.add_sub_cancel' h.le]
  have hfree : ((List.range (8 - n)).map (n + ·)).filterMap (slotRecord m) = [] := by
    refine List.filterMap_eq_nil_iff.mpr fun k hk => ?_
    obtain ⟨j, hj, rfl⟩ := List.mem_map.mp hk
    have hlt : n + j < 8 := by have := List.mem_range.mp hj; omega
    have hbusy : ¬(entry m.rob (slotAt m.head (n + j))).busy = true := by
      rw [h.busy, ageFrom_slotAt _ hlt]
      omega
    rw [slotRecord, if_neg hbusy]
  rw [inFlight_eq_range, hsplit, List.filterMap_append, hfree, List.append_nil]

theorem slotRecord_congr {m m' : Snapshot} {k k' : Nat} (hslot : slotAt m'.head k' = slotAt m.head k)
    (hbusy : (entry m'.rob (slotAt m.head k)).busy = (entry m.rob (slotAt m.head k)).busy)
    (hinstr : (entry m'.rob (slotAt m.head k)).instr = (entry m.rob (slotAt m.head k)).instr) :
    slotRecord m' k' = slotRecord m k := by
  simp only [slotRecord, hslot, hbusy, hinstr]

theorem inFlight_congr {m m' : Snapshot} (hhead : m'.head = m.head)
    (hbusy : ∀ b, (entry m'.rob b).busy = (entry m.rob b).busy)
    (hinstr : ∀ b, (entry m'.rob b).instr = (entry m.rob b).instr) : inFlight m' = inFlight m := by
  rw [inFlight_eq_range, inFlight_eq_range]
  exact List.filterMap_congr fun k _ => slotRecord_congr (by rw [hhead]) (hbusy _) (hinstr _)

theorem HeadReady.slotRecord_zero {m : Snapshot} {i : Record} (hi : HeadReady m i) :
    slotRecord m 0 = some (i, m.head) := by
  simp [slotRecord, hi.busy, hi.instr]

/-- The record that retires is the oldest in flight. -/
theorem Retired.inFlight_eq {prog : List Record} {m m' : Snapshot} {i : Record} (hm' : Retired m m')
    (h : PipelineInv prog m) (hi : HeadReady m i) : inFlight m = (i, m.head) :: inFlight m' := by
  obtain ⟨n, hfifo, hfifo'⟩ := hm'.fifo h hi
  rw [hfifo.inFlight_eq, hfifo'.inFlight_eq, List.range_succ_eq_map, List.filterMap_cons, hi.slotRecord_zero,
    List.filterMap_map]
  refine congrArg _ (List.filterMap_congr fun k hk => ?_)
  have hk8 : k + 1 < 8 := by have := List.mem_range.mp hk; have := hfifo.le; omega
  have hne : slotAt m.head (k + 1) ≠ m.head := fun he => by
    have hage := ageFrom_slotAt m.head hk8
    rw [he, ageFrom_self] at hage
    omega
  exact (slotRecord_congr (by rw [hm'.head, slotAt_head_succ]) (congrArg RobEntry.busy (hm'.entry_rob_ne hne))
    (congrArg RobEntry.instr (hm'.entry_rob_ne hne))).symm

theorem inFlight_of_quiescent {m : Snapshot} (h : Quiescent m) : inFlight m = [] := by
  obtain ⟨-, hrob, -, hht⟩ := h
  rw [(Fifo.of_empty hrob hht).inFlight_eq]
  rfl

theorem HeadReady.inFlight_eq {prog : List Record} {m : Snapshot} {i : Record} (hi : HeadReady m i)
    (h : PipelineInv prog m) : ∃ rest, inFlight m = (i, m.head) :: rest := by
  obtain ⟨n, hfifo⟩ := fifoInv_iff.mp h.fifo
  obtain ⟨n, rfl⟩ := Nat.exists_eq_succ_of_ne_zero (hfifo.head_busy_iff.mp hi.busy).ne'
  rw [hfifo.inFlight_eq, List.range_succ_eq_map, List.filterMap_cons, hi.slotRecord_zero]
  exact ⟨_, rfl⟩

/-- The record that is issued becomes the youngest in flight. -/
theorem PipelineInv.inFlight_dispatch {prog : List Record} {m : Snapshot} (h : PipelineInv prog m) (c : Config)
    (i : Record) (r : RsIx) (hfree : (entry m.rob m.tail).busy = false) :
    inFlight (Machine.dispatch c m i r) = inFlight m ++ [(i, m.tail)] := by
  obtain ⟨n, hfifo⟩ := fifoInv_iff.mp h.fifo
  have hn := hfifo.lt_of_tail_free hfree
  have hfifo' : Fifo (n + 1) (Machine.dispatch c m i r) := hfifo.claim hfree (e := issuedRob i) rfl rfl rfl rfl
  have hlast : slotRecord (Machine.dispatch c m i r) n = some (i, m.tail) := by
    simp [slotRecord, issuedRob, ← hfifo.tail]
  have hold : ∀ k ∈ List.range n, slotRecord (Machine.dispatch c m i r) k = slotRecord m k := fun k hk => by
    have hkn := List.mem_range.mp hk
    have hne : slotAt m.head k ≠ m.tail := fun he => by
      have hage := ageFrom_slotAt m.head (hkn.trans hn)
      rw [he, hfifo.ageFrom_tail hn] at hage
      omega
    exact slotRecord_congr rfl (congrArg RobEntry.busy (dispatch_entry_rob_ne c m i r hne))
      (congrArg RobEntry.instr (dispatch_entry_rob_ne c m i r hne))
  rw [hfifo'.inFlight_eq, hfifo.inFlight_eq, List.range_succ, List.filterMap_append, List.filterMap_congr hold]
  simp [hlast]

/-! ### Commit order -/

/-- The pipeline invariant, and a log that replays to what is in flight. -/
structure OrderInv (prog : List Record) (m : Snapshot) : Prop where
  pipeline : PipelineInv prog m
  order : replay [] m.log = some (inFlight m)

theorem OrderInv.commit {prog : List Record} {m : Snapshot} (h : OrderInv prog m) (c : Config) :
    OrderInv prog (commitStage c m) := by
  refine ⟨h.pipeline.commit c, ?_⟩
  rcases commitStage_cases c m with ⟨-, heq⟩ | ⟨hb, hr, i, hi, hcases⟩
  · rw [heq]
    exact h.order
  · have hi : HeadReady m i := ⟨hb, hr, hi⟩
    have hretire : ∀ v, Retired m (commitStage c m) → (commitStage c m).log = m.log ++ [.commit m.head i v false] →
        replay [] (commitStage c m).log = some (inFlight (commitStage c m)) := fun v hretired hlog => by
      rw [hlog, replay_snoc h.order, hretired.inFlight_eq h.pipeline hi]
      simp [replay]
    rcases hcases with ⟨hop, heq⟩ | ⟨hop, -, heq⟩ | ⟨-, -, heq⟩
    · exact hretire _ (heq ▸ hi.retired_of_not_branch h.pipeline c hop)
        (by rw [heq, retireHead_log, commitWrite_head, commitWrite_log])
    · exact hretire _ (heq ▸ hi.retired_of_branch h.pipeline hop) (by rw [heq, retireHead_log])
    · obtain ⟨rest, hrest⟩ := hi.inFlight_eq h.pipeline
      rw [heq, inFlight_of_quiescent (quiescent_commitMispredicted m _ i), commitMispredicted_log, replay_snoc h.order,
        hrest]
      simp [replay]

theorem OrderInv.keptByStages (c : Config) (prog : List Record) : KeptByStages c prog (OrderInv prog) where
  commit _ h := h.commit c
  broadcast m p hp h := by
    refine ⟨h.pipeline.broadcast c hp, ?_⟩
    rw [inFlight_congr (broadcast_head c m p) (entry_broadcast_rob_busy c m p) (entry_broadcast_rob_instr c m p)]
    exact h.order
  execute _ h := ⟨h.pipeline.execute, h.order⟩
  dispatch m i r hfetch hstation hfree h := by
    refine ⟨h.pipeline.dispatch c hfetch hstation hfree, ?_⟩
    rw [dispatch_log, replay_snoc h.order, h.pipeline.inFlight_dispatch c i r hfree]
    rfl
  bubble m h := ⟨(PipelineInv.keptByStages c prog).bubble m h.pipeline, h.order⟩
  endCycle m h := ⟨(PipelineInv.keptByStages c prog).endCycle m h.pipeline, h.order⟩

theorem OrderInv.of_fresh (prog : List Record) (rf : Vector Val 32) : OrderInv prog (freshSnapshot rf) :=
  ⟨.of_quiescent prog (quiescent_fresh rf), by rw [inFlight_of_quiescent (quiescent_fresh rf)]; rfl⟩

/-- Settles O44: Commit takes the head of the replayed queue, or empties it with a flush; Issue appends to it; no other
stage touches the log or the records in flight. -/
theorem everyEdgeKeepsCommitOrder : Obligations.EveryEdgeKeepsCommitOrder := by
  intro s t hinv horder hstep
  obtain ⟨-, hinv⟩ := engineInv_iff.mp hinv
  have hkept := (edge_of_step hstep).keeps_snapshots (P := OrderInv) (fun prog => .of_fresh prog _)
    (fun prog => .of_fresh prog _) (fun m _ => (OrderInv.keptByStages s.cfg s.prog).nextLive)
    (fun m hm => ⟨hinv m hm, horder m hm⟩)
  exact fun m hm => (hkept m hm).order

/-! ### The number of busy slots -/

/-- The number of busy slots as a sum over the slots. -/
theorem occupancy_eq_sum (m : Snapshot) : occupancy m = ∑ b : RobIx, (entry m.rob b).busy.toNat := by
  have hlist : ∀ l : List RobIx, (l.countP fun b => (entry m.rob b).busy) =
      (l.map fun b => (entry m.rob b).busy.toNat).sum := by
    intro l
    induction l with
    | nil => rfl
    | cons b l ih => cases hb : (entry m.rob b).busy <;> simp [hb, ih, Nat.add_comm]
  rw [occupancy, hlist, ← List.ofFn_eq_map, List.sum_ofFn]

/-- Writing one slot changes the number of busy ones by that slot's own change. -/
theorem occupancy_of_setEntry {m m' : Snapshot} {b : RobIx} {e : RobEntry} (hrob : m'.rob = setEntry m.rob b e) :
    occupancy m' + (entry m.rob b).busy.toNat = occupancy m + e.busy.toNat := by
  have hothers : ∑ x ∈ (Finset.univ : Finset RobIx).erase b, (entry m'.rob x).busy.toNat =
      ∑ x ∈ (Finset.univ : Finset RobIx).erase b, (entry m.rob x).busy.toNat :=
    Finset.sum_congr rfl fun x hx => by rw [hrob, entry_setEntry_ne _ _ (Finset.ne_of_mem_erase hx)]
  have hsplit := Finset.add_sum_erase (Finset.univ : Finset RobIx) (fun x => (entry m.rob x).busy.toNat)
    (Finset.mem_univ b)
  have hsplit' := Finset.add_sum_erase (Finset.univ : Finset RobIx) (fun x => (entry m'.rob x).busy.toNat)
    (Finset.mem_univ b)
  have hb : (entry m'.rob b).busy = e.busy := by rw [hrob, entry_setEntry_same]
  rw [occupancy_eq_sum, occupancy_eq_sum]
  rw [hothers, hb] at hsplit'
  omega

theorem occupancy_congr {m m' : Snapshot} (h : ∀ b, (entry m'.rob b).busy = (entry m.rob b).busy) :
    occupancy m' = occupancy m := by
  simp only [occupancy, h]

theorem occupancy_filled_empty {m : Snapshot} (h : m.rob = filled 8 emptyRob) : occupancy m = 0 := by
  simp [occupancy_eq_sum, h, emptyRob]

/-! ### Bookkeeping -/

/-- (I8) of one Snapshot within a cycle: by then `x` more instructions or bubbles, and `y` more commits, may have been
counted than cycles. -/
structure Book (x y : Nat) (m : Snapshot) : Prop where
  committed : m.committed = m.log.countP TraceEvent.isCommit
  flushes : m.flushes = m.log.countP TraceEvent.isFlush
  offers : m.log.countP TraceEvent.isIssue + m.bubbles ≤ m.cycle + x
  flushes_le : m.flushes ≤ m.committed
  committed_le : m.committed ≤ m.cycle + y
  issued : m.committed + occupancy m ≤ m.log.countP TraceEvent.isIssue

theorem bookInv_iff {m : Snapshot} : BookInv m ↔ Book 0 0 m :=
  ⟨fun ⟨h1, h2, h3, h4, h5, h6⟩ => ⟨h1, h2, h3, h4, h5, h6⟩, fun ⟨h1, h2, h3, h4, h5, h6⟩ => ⟨h1, h2, h3, h4, h5, h6⟩⟩

/-- A commit is counted, its line logged, and at least the slot at `head` freed. -/
theorem Book.commit_line {m m' : Snapshot} (h : Book 0 0 m) {b : RobIx} {i : Record} {v : Val} {flushed : Bool}
    (hcycle : m'.cycle = m.cycle) (hbubbles : m'.bubbles = m.bubbles) (hcommitted : m'.committed = m.committed + 1)
    (hflushes : m'.flushes = m.flushes + flushed.toNat) (hlog : m'.log = m.log ++ [.commit b i v flushed])
    (hocc : occupancy m' + 1 ≤ occupancy m) : Book 0 1 m' := by
  obtain ⟨h1, h2, h3, h4, h5, h6⟩ := h
  have hflag := Bool.toNat_le flushed
  have hcommits : m'.log.countP TraceEvent.isCommit = m.log.countP TraceEvent.isCommit + 1 := by
    simp [hlog, TraceEvent.isCommit]
  have hissues : m'.log.countP TraceEvent.isIssue = m.log.countP TraceEvent.isIssue := by
    simp [hlog, TraceEvent.isIssue]
  have hflags : m'.log.countP TraceEvent.isFlush = m.log.countP TraceEvent.isFlush + flushed.toNat := by
    cases flushed <;> simp [hlog, TraceEvent.isFlush]
  constructor <;> omega

theorem Book.commit {m : Snapshot} (h : Book 0 0 m) (c : Config) : Book 0 1 (commitStage c m) := by
  rcases commitStage_cases c m with ⟨-, heq⟩ | ⟨hb, -, i, -, hcases⟩
  · rw [heq]
    exact ⟨h.committed, h.flushes, h.offers, h.flushes_le, h.committed_le.trans (Nat.le_succ _), h.issued⟩
  · have hone : (entry m.rob m.head).busy.toNat = 1 := by rw [hb]; rfl
    have hfreed : ∀ {m' : Snapshot}, m'.rob = setEntry m.rob m.head emptyRob → occupancy m' + 1 ≤ occupancy m :=
      fun hrob => by rw [← hone, occupancy_of_setEntry hrob]; rfl
    rcases hcases with ⟨-, heq⟩ | ⟨-, -, heq⟩ | ⟨-, -, heq⟩
    · exact heq ▸ h.commit_line (flushed := false) (by simp) (by simp) (by simp) (by simp)
        (by rw [retireHead_log, commitWrite_head, commitWrite_log]) (hfreed (by simp))
    · exact heq ▸ h.commit_line (flushed := false) rfl rfl rfl rfl (retireHead_log _ _ _) (hfreed rfl)
    · have hbefore := hfreed (m' := retireHead m (entry m.rob m.head) i) rfl
      have hafter : occupancy (commitMispredicted m (entry m.rob m.head) i) = 0 := occupancy_filled_empty rfl
      exact heq ▸ h.commit_line (flushed := true) rfl rfl rfl rfl (commitMispredicted_log _ _ _) (by omega)

theorem Book.writeback {x y : Nat} {m : Snapshot} (h : Book x y m) (c : Config) : Book x y (writebackStage c m) :=
  writebackStage_keeps c (fun m p _ hm =>
    ⟨hm.committed, hm.flushes, hm.offers, hm.flushes_le, hm.committed_le,
      by rw [occupancy_congr (entry_broadcast_rob_busy c m p)]; exact hm.issued⟩) h

theorem Book.issue {y : Nat} {m : Snapshot} (h : Book 0 y m) (c : Config) (prog : List Record) :
    Book 1 y (issueStage c prog m) := by
  obtain ⟨h1, h2, h3, h4, h5, h6⟩ := h
  rcases issueStage_outcomes c prog m with heq | heq | ⟨i, r, -, -, hfree, heq⟩ <;> rw [heq]
  · exact ⟨h1, h2, h3.trans (Nat.le_succ _), h4, h5, h6⟩
  · exact ⟨h1, h2, Nat.succ_le_succ h3, h4, h5, h6⟩
  · have hocc := occupancy_of_setEntry (dispatch_rob c m i r)
    have hissues : (dispatch c m i r).log.countP TraceEvent.isIssue = m.log.countP TraceEvent.isIssue + 1 := by
      simp [TraceEvent.isIssue]
    have hcommits : (dispatch c m i r).log.countP TraceEvent.isCommit = m.log.countP TraceEvent.isCommit := by
      simp [TraceEvent.isCommit]
    have hflags : (dispatch c m i r).log.countP TraceEvent.isFlush = m.log.countP TraceEvent.isFlush := by
      simp [TraceEvent.isFlush]
    simp only [hfree, issuedRob, Bool.toNat_false, Bool.toNat_true] at hocc
    constructor <;> simp only [dispatch_committed, dispatch_flushes, dispatch_bubbles, dispatch_cycle] <;> omega

theorem Book.endCycle {m : Snapshot} (h : Book 1 1 m) : Book 0 0 (endCycle m) :=
  ⟨h.committed, h.flushes, h.offers, h.flushes_le, h.committed_le, h.issued⟩

theorem Book.nextLive {m : Snapshot} (h : Book 0 0 m) (c : Config) (prog : List Record) :
    Book 0 0 (nextLive c prog m) := by
  obtain ⟨h1, h2, h3, h4, h5, h6⟩ := (h.commit c).writeback c
  have hexec : Book 0 1 (stagesBeforeIssue c m) := ⟨h1, h2, h3, h4, h5, h6⟩
  exact (hexec.issue c prog).endCycle

theorem Book.of_fresh (rf : Vector Val 32) : Book 0 0 (freshSnapshot rf) :=
  ⟨rfl, rfl, le_rfl, le_rfl, le_rfl, by rw [occupancy_filled_empty rfl]; rfl⟩

/-- Settles O43: Commit counts what it logs and frees a slot, Issue logs what it claims one for, and the cycle is
counted last. -/
theorem everyEdgeKeepsTheBookkeeping : Obligations.EveryEdgeKeepsTheBookkeeping := by
  intro s t hinv hstep
  have hkept := (edge_of_step hstep).keeps_snapshots (P := fun _ => Book 0 0) (fun _ => .of_fresh _)
    (fun _ => .of_fresh _)
    (fun _ _ hm => hm.nextLive s.cfg s.prog) fun m hm => bookInv_iff.mp (hinv m hm)
  exact fun m hm => bookInv_iff.mpr (hkept m hm)

end Sys2Proof.Machine
end

section
/-! PROOF. Pending tags (70_reset_and_hazards R301, C6): every stage keeps them on slots without a result, but for an
Issue in a stale-tag event, which leaves one on a slot that has broadcast. -/

namespace Sys2Proof.Machine

/-! ### What the Issue stage does, in the terms of the hazard events -/

/-- Everything the Issue stage of the next cycle can do to the live state `m` it finds: dispatch nothing, or dispatch
the record that `issuedNext` names. -/
theorem issuedNext_cases {s : State} {m : Snapshot} (hm : (beginCycle s).live = m) :
    (issuedNext s = none ∧ (issueStage s.cfg s.prog m = m ∨ issueStage s.cfg s.prog m = bubble m)) ∨
      ∃ i r, issuedNext s = some i ∧ s.prog[m.pc]? = some i ∧ freeStation m.rs (opClass i.op) = some r ∧
        (entry m.rob m.tail).busy = false ∧ issueStage s.cfg s.prog m = dispatch s.cfg m i r := by
  subst hm
  rcases issueStage_cases s.cfg s.prog (beginCycle s).live with ⟨hend, heq⟩ | ⟨i, hi, heq⟩
  · have hfetch : fetchedRecord s = none := List.getElem?_eq_none hend
    exact .inl ⟨by simp only [issuedNext, hfetch], .inl heq⟩
  have hfetch : fetchedRecord s = some i := hi
  rcases offer_cases s.cfg (beginCycle s).live i with ⟨hwait, hoffer⟩ | ⟨r, hr, hfree, hoffer⟩
  · refine .inl ⟨?_, .inr (heq.trans hoffer)⟩
    cases hstation : freeStation (beginCycle s).live.rs (opClass i.op) with
    | none => simp only [issuedNext, hfetch, hstation]
    | some r =>
      rcases hwait with hnone | hfull
      · cases hstation.symm.trans hnone
      · simp only [issuedNext, hfetch, hstation, hfull, if_true]
  · refine .inr ⟨i, r, ?_, hi, hr, hfree, heq.trans hoffer⟩
    simp only [issuedNext, hfetch, hr, hfree, Bool.false_eq_true, if_false]

theorem pendingOnReady_of_pending {m : Snapshot} {d : RegIx} {q : RobIx} (hd : entry m.rst d = some q)
    (hq : (entry m.rob q).state = .ready) : pendingOnReady m d = true := by
  simp [pendingOnReady, hd, hq]

theorem pendingOnReady_iff {m : Snapshot} {d : RegIx} :
    pendingOnReady m d = true ↔ ∃ q, entry m.rst d = some q ∧ (entry m.rob q).state = .ready := by
  simp [pendingOnReady, Option.any_eq_true]

/-- Without the event no source of the issued record waits for a ready slot, unless Issue reads ready slots. -/
theorem no_pendingOnReady {s : State} (hstale : staleTagEvent s = false) {i : Record} (hi : issuedNext s = some i)
    {d : RegIx}
    (hd : d = i.rs1 ∨ d = i.rs2) (hparam : s.cfg.issueReadsReadyRob = false) :
    pendingOnReady (stagesBeforeIssue s.cfg s.live) d = false := by
  simp only [staleTagEvent, hi, hparam, Option.any_some, Bool.not_false, Bool.true_and, Bool.or_eq_false_iff,
    beginCycle_live] at hstale
  obtain ⟨h1, h2⟩ := hstale
  rcases hd with rfl | rfl
  · exact h1
  · exact h2

theorem readOperand_eq_tag {c : Config} {m : Snapshot} {d : RegIx} {q : RobIx} (h : readOperand c m d = .tag q) :
    entry m.rst d = some q ∧ (c.issueReadsReadyRob = false ∨ (entry m.rob q).state ≠ .ready) := by
  rcases readOperand_cases c m d with ⟨-, hval⟩ | ⟨y, hy, ⟨-, -, hval⟩ | ⟨hnot, htag⟩⟩
  · cases h.symm.trans hval
  · cases h.symm.trans hval
  · obtain rfl : q = y := Operand.tag.inj (h.symm.trans htag)
    rw [not_and_or, Bool.not_eq_true] at hnot
    exact ⟨hy, hnot⟩

/-! ### Each stage on the pending tags -/

/-- One of the station's operands waits for slot `b`. -/
def RsEntry.awaits (e : RsEntry) (b : RobIx) : Prop := e.j = .tag b ∨ e.k = .tag b

theorem Operand.forward_eq_tag_iff {o : Operand} {q b : RobIx} {v : Val} :
    o.forward q v = .tag b ↔ o = .tag b ∧ b ≠ q := by
  unfold Operand.forward
  split
  next h => subst h; simp [eq_comm]
  next h => exact ⟨fun ho => ⟨ho, fun hb => h (hb ▸ ho)⟩, fun ho => ho.1⟩

theorem RsEntry.awaits_forward {e : RsEntry} (hbusy : e.busy = true) {q b : RobIx} {v : Val} :
    (e.forward q v).awaits b ↔ e.awaits b ∧ b ≠ q := by
  rw [RsEntry.forward_of_busy hbusy]
  simp only [RsEntry.awaits, Operand.forward_eq_tag_iff]
  exact or_and_right.symm

theorem RsEntry.tick_frame (e : RsEntry) : e.tick = { e with lat := e.tick.lat } := by
  by_cases h : e.busy = true ∧ e.resolved = true
  · obtain ⟨hbusy, hres⟩ := h
    rw [RsEntry.tick_of_resolved hbusy hres]
  · rw [RsEntry.tick_of_not_resolved h]

/-- A station that is busy after a broadcast was busy before it, and is another one than the broadcasting. -/
theorem of_broadcast_rs_busy {c : Config} {m : Snapshot} {p r : RsIx} (h : (entry (broadcast c m p).rs r).busy = true) :
    r ≠ p ∧ (entry m.rs r).busy = true ∧
      entry (broadcast c m p).rs r = (entry m.rs r).forward (entry m.rs p).dest
        (stationResult c m (entry m.rs p)).value := by
  rw [broadcast_eq_release] at h
  obtain ⟨hne, -, hbusy⟩ := of_release_rs_busy _ _ _ _ h
  rw [entry_tabulate, (RsEntry.progress_forward _ _ _).busy] at hbusy
  exact ⟨hne, hbusy, entry_broadcast_rs_ne c m hne⟩

theorem TagInv.broadcast {m : Snapshot} (h : TagInv m) (c : Config) (p : RsIx) : TagInv (broadcast c m p) := by
  intro r b hbusy hawaits
  obtain ⟨-, hr, heq⟩ := of_broadcast_rs_busy hbusy
  rw [heq] at hawaits
  obtain ⟨hawaits, hb⟩ := (RsEntry.awaits_forward hr).mp hawaits
  rw [broadcast_rob, entry_setEntry_ne _ _ hb]
  exact h r b hr hawaits

theorem TagInv.execute {m : Snapshot} (h : TagInv m) : TagInv (executeStage m) := by
  intro r b
  rw [entry_executeStage, RsEntry.tick_frame]
  exact h r b

theorem TagInv.of_quiescent {m : Snapshot} (h : Quiescent m) : TagInv m := by
  obtain ⟨hrs, -⟩ := h
  intro r b hbusy
  simp [hrs, emptyRs] at hbusy

theorem TagInv.retired {m m' : Snapshot} {i : Record} (h : TagInv m) (hm' : Retired m m') (hi : HeadReady m i) :
    TagInv m' := by
  intro r b hbusy hawaits
  rw [hm'.rs] at hbusy hawaits
  obtain ⟨hb, hx⟩ := h r b hbusy hawaits
  have hne : b ≠ m.head := fun he => by
    rw [he, hi.ready] at hx
    exact RobState.noConfusion hx
  rw [hm'.entry_rob_ne hne]
  exact ⟨hb, hx⟩

theorem TagInv.commit {prog : List Record} {m : Snapshot} (h : TagInv m) (hinv : PipelineInv prog m) (c : Config) :
    TagInv (commitStage c m) := by
  rcases hinv.commit_cases c with heq | ⟨i, hi, hretired | ⟨-, -, heq⟩⟩
  · rwa [heq]
  · exact h.retired hretired hi
  · rw [heq]
    exact .of_quiescent (quiescent_commitMispredicted m _ i)

theorem TagInv.stagesBeforeIssue {prog : List Record} {m : Snapshot} (h : TagInv m) (hinv : PipelineInv prog m)
    (c : Config) : TagInv (stagesBeforeIssue c m) :=
  TagInv.execute (writebackStage_keeps c (P := TagInv) (fun _ p _ hm => TagInv.broadcast hm c p) (h.commit hinv c))

theorem PipelineInv.claimant_busy {prog : List Record} {m : Snapshot} (h : PipelineInv prog m) {d : RegIx} {q : RobIx}
    (hd : entry m.rst d = some q) : (entry m.rob q).busy = true :=
  (renamingWriter_iff.mp (h.youngest hd).1).1

/-- An Issue none of whose sources waits for a ready slot tags only slots without a result. -/
theorem TagInv.dispatch {prog : List Record} {m : Snapshot} (h : TagInv m) (hinv : PipelineInv prog m) (c : Config)
    {i : Record} {r : RsIx} (hfree : (entry m.rob m.tail).busy = false)
    (hsources : ∀ d q, (d = i.rs1 ∨ d = i.rs2) → readOperand c m d = .tag q → (entry m.rob q).state ≠ .ready) :
    TagInv (dispatch c m i r) := by
  intro p b hbusy hawaits
  have hold : (entry m.rob b).busy = true ∧ (entry m.rob b).state = .executing := by
    by_cases hpr : p = r
    · rw [hpr, dispatch_entry_rs_same] at hawaits
      obtain ⟨d, hd, htag⟩ : ∃ d, (d = i.rs1 ∨ d = i.rs2) ∧ readOperand c m d = .tag b := by
        rcases hawaits with hj | hk
        · exact ⟨i.rs1, .inl rfl, hj⟩
        · exact ⟨i.rs2, .inr rfl, hk⟩
      have hb := hinv.claimant_busy (readOperand_eq_tag htag).1
      exact ⟨hb, (hinv.executing_or_ready hb).resolve_right (hsources d b hd htag)⟩
    · rw [dispatch_entry_rs_ne c m i r hpr] at hbusy hawaits
      exact h p b hbusy hawaits
  rw [dispatch_entry_rob_ne c m i r (ne_tail_of_busy hfree hold.1)]
  exact hold

theorem PipelineInv.stagesBeforeIssue {prog : List Record} {m : Snapshot} (h : PipelineInv prog m) (c : Config) :
    PipelineInv prog (stagesBeforeIssue c m) :=
  (PipelineInv.keptByStages c prog).stagesBeforeIssue h

theorem TagInv.runCycle {s : State} (h : TagInv s.live) (hinv : PipelineInv s.prog s.live)
    (hstale : staleTagEvent s = false) :
    TagInv (runCycle s).live := by
  have hbefore := h.stagesBeforeIssue hinv s.cfg
  have hinvBefore := hinv.stagesBeforeIssue s.cfg
  show TagInv (issueStage s.cfg s.prog (Machine.stagesBeforeIssue s.cfg s.live))
  rcases issuedNext_cases (beginCycle_live s) with ⟨-, heq | heq⟩ | ⟨i, r, hi, -, -, hfree, heq⟩
  · rwa [heq]
  · rw [heq]
    exact hbefore
  · rw [heq]
    refine hbefore.dispatch hinvBefore s.cfg hfree fun d q hd htag => ?_
    obtain ⟨hpending, hparam | hready⟩ := readOperand_eq_tag htag
    · intro hready
      have := no_pendingOnReady hstale hi hd hparam
      simp [pendingOnReady_of_pending hpending hready] at this
    · exact hready

/-- Settles O47: stage by stage, the event being excluded where Issue reads its operands. -/
theorem stepKeepsTagsLiveWithoutStaleEvent : Obligations.StepKeepsTagsLiveWithoutStaleEvent := by
  intro s t hinv htags hstale hstep
  obtain ⟨-, hinv⟩ := engineInv_iff.mp hinv
  obtain rfl : runCycle s = t := Host.Outcome.next.inj hstep
  exact htags.runCycle (hinv _ List.mem_cons_self) hstale

/-- Settles O48: the record the event names is issued, and its pending source is tagged with a slot that is ready and
stays so. -/
theorem staleEventLeavesADeadTag : Obligations.StaleEventLeavesADeadTag := by
  intro s t hinv hstale hstep
  obtain ⟨-, hinv⟩ := engineInv_iff.mp hinv
  obtain rfl : runCycle s = t := Host.Outcome.next.inj hstep
  have hinvBefore := (hinv _ List.mem_cons_self).stagesBeforeIssue s.cfg
  obtain ⟨hparam, i, hi, hsource⟩ : s.cfg.issueReadsReadyRob = false ∧ ∃ i, issuedNext s = some i ∧
      ∃ d, (d = i.rs1 ∨ d = i.rs2) ∧ pendingOnReady (stagesBeforeIssue s.cfg s.live) d = true := by
    rw [staleTagEvent, Bool.and_eq_true, Bool.not_eq_true'] at hstale
    obtain ⟨hparam, hany⟩ := hstale
    obtain ⟨i, hi, hpending⟩ := (Option.any_eq_true _ _).mp hany
    rw [Bool.or_eq_true] at hpending
    refine ⟨hparam, i, hi, ?_⟩
    rcases hpending with h1 | h2
    · exact ⟨i.rs1, .inl rfl, h1⟩
    · exact ⟨i.rs2, .inr rfl, h2⟩
  rcases issuedNext_cases (beginCycle_live s) with ⟨hnone, -⟩ | ⟨i', r, hi', -, -, hfree, heq⟩
  · cases hi.symm.trans hnone
  obtain rfl : i = i' := Option.some.inj (hi.symm.trans hi')
  obtain ⟨d, hd, hpending⟩ := hsource
  obtain ⟨q, hq, hready⟩ := pendingOnReady_iff.mp hpending
  have htag : readOperand s.cfg (stagesBeforeIssue s.cfg s.live) d = .tag q := by
    rw [readOperand_of_pending s.cfg hq, if_neg (by simp [hparam])]
  refine ⟨r, q, ?_⟩
  rw [runCycle_live, heq, endCycle_rs, endCycle_rob, dispatch_entry_rs_same,
    dispatch_entry_rob_ne _ _ _ _ (ne_tail_of_busy hfree (hinvBefore.claimant_busy hq))]
  refine ⟨rfl, ?_, hready⟩
  rcases hd with rfl | rfl
  · exact .inl htag
  · exact .inr htag

end Sys2Proof.Machine
end

section
/-! PROOF. Hazard-free runs are sequential (70_reset_and_hazards R300). The simulation relates the engine to the
sequential machine at the oldest record in flight: the registers are the same, the records in flight are those the
sequential machine comes to next if no branch is taken (the line from its `ip`), and every result and every operand in
flight is what that line computes. Commit is a step of the sequential machine, every other stage is none. -/

namespace Sys2Proof.Machine

/-! ### The line of records after a state of the sequential machine -/

/-- What record `i` at index `ip` computes from registers `x`. -/
def resultAt (c : Config) (i : Record) (ip : Nat) (x : Vector Val 32) : Result :=
  resultOf c i.op (entry x i.rs1) (entry x i.rs2) ip i.off

/-- Record `i` writes a register (41_arith, 42_loadstore): it is no branch, nor a store that writes none. -/
def writesRegister (c : Config) (i : Record) : Bool := !i.op.isBranch && !(i.op.isStore && !c.storeCommitWritesRd)

/-- The condition under which Commit writes the register of a non-branch (40_engine_cycle R123). -/
theorem writesRegister_iff (c : Config) {i : Record} (hop : i.op.isBranch = false) :
    (i.op ≠ .sw ∨ c.storeCommitWritesRd = true) ↔ writesRegister c i = true := by
  rw [ne_eq, ← isStore_iff, writesRegister, hop]
  cases i.op.isStore <;> cases c.storeCommitWritesRd <;> simp

/-- The registers after the register write of a committing non-branch. -/
theorem commitWrite_rf_eq (c : Config) (m : Snapshot) {e : RobEntry} {i : Record} (hop : i.op.isBranch = false)
    (hdest : e.dest = some i.rd) :
    (commitWrite c m e i).rf = if writesRegister c i then setEntry m.rf i.rd (wrap c.xlen e.value) else m.rf := by
  rw [commitWrite_eq c m e i hdest]
  exact if_congr (writesRegister_iff c hop) rfl rfl

/-- The registers after record `i` at index `ip`. -/
def regsAfter (c : Config) (i : Record) (ip : Nat) (x : Vector Val 32) : Vector Val 32 :=
  if writesRegister c i then setEntry x i.rd (resultAt c i ip x).value else x

/-- The registers of the sequential machine `k` records after `q`, as long as no branch is taken. -/
def lineRegs (c : Config) (prog : List Record) (q : SeqState) : Nat → Vector Val 32
  | 0 => q.x
  | k + 1 =>
    match prog[q.ip + k]? with
    | none => lineRegs c prog q k
    | some i => regsAfter c i (q.ip + k) (lineRegs c prog q k)

/-- What the record `k` places after `q` computes on that line. -/
def lineResult (c : Config) (prog : List Record) (q : SeqState) (k : Nat) : Result :=
  match prog[q.ip + k]? with
  | none => .ofValue 0
  | some i => resultAt c i (q.ip + k) (lineRegs c prog q k)

section Line
variable {c : Config} {prog : List Record} {q : SeqState} {i : Record} {k : Nat}

theorem lineRegs_succ (h : prog[q.ip + k]? = some i) :
    lineRegs c prog q (k + 1) = regsAfter c i (q.ip + k) (lineRegs c prog q k) := by
  simp only [lineRegs, h]

theorem lineRegs_succ_of_none (h : prog[q.ip + k]? = none) : lineRegs c prog q (k + 1) = lineRegs c prog q k := by
  simp only [lineRegs, h]

theorem lineResult_eq (h : prog[q.ip + k]? = some i) :
    lineResult c prog q k = resultAt c i (q.ip + k) (lineRegs c prog q k) := by
  simp only [lineResult, h]

/-- The line seen from its second record. -/
theorem lineRegs_tail {q' : SeqState} (h : prog[q.ip]? = some i) (hip : q'.ip = q.ip + 1)
    (hx : q'.x = regsAfter c i q.ip q.x) (k : Nat) : lineRegs c prog q' k = lineRegs c prog q (k + 1) := by
  induction k with
  | zero => rw [lineRegs_succ (k := 0) h, Nat.add_zero]; exact hx
  | succ k ih =>
    have hplace : q'.ip + k = q.ip + (k + 1) := by omega
    cases hi : prog[q.ip + (k + 1)]? with
    | none => rw [lineRegs_succ_of_none hi, lineRegs_succ_of_none (hplace ▸ hi), ih]
    | some j => rw [lineRegs_succ hi, lineRegs_succ (hplace ▸ hi), ih, hplace]

theorem lineResult_tail {q' : SeqState} (h : prog[q.ip]? = some i) (hip : q'.ip = q.ip + 1)
    (hx : q'.x = regsAfter c i q.ip q.x) (k : Nat) : lineResult c prog q' k = lineResult c prog q (k + 1) := by
  have hplace : q'.ip + k = q.ip + (k + 1) := by omega
  rw [lineResult, lineResult, hplace, lineRegs_tail h hip hx]

/-! ### Which record of the line a register's value comes from -/

/-- The record `k` places after `q` writes register `d`. -/
def lineWrites (c : Config) (prog : List Record) (q : SeqState) (d : RegIx) (k : Nat) : Prop :=
  ∃ i, prog[q.ip + k]? = some i ∧ writesRegister c i = true ∧ i.rd = d

theorem entry_lineRegs_of_writes {d : RegIx} (h : lineWrites c prog q d k) :
    entry (lineRegs c prog q (k + 1)) d = (lineResult c prog q k).value := by
  obtain ⟨i, hi, hw, rfl⟩ := h
  rw [lineRegs_succ hi, lineResult_eq hi, regsAfter, if_pos hw, entry_setEntry_same]

theorem entry_lineRegs_of_not_writes {d : RegIx} (h : ¬lineWrites c prog q d k) :
    entry (lineRegs c prog q (k + 1)) d = entry (lineRegs c prog q k) d := by
  cases hi : prog[q.ip + k]? with
  | none => rw [lineRegs_succ_of_none hi]
  | some i =>
    rw [lineRegs_succ hi, regsAfter]
    split
    next hw => exact entry_setEntry_ne _ _ fun hd => h ⟨i, hi, hw, hd.symm⟩
    next => rfl

/-- A register that no record of the line writes from place `j` on keeps its value. -/
theorem entry_lineRegs_of_unwritten {d : RegIx} {j : Nat} (hjk : j ≤ k)
    (h : ∀ l, j ≤ l → l < k → ¬lineWrites c prog q d l) :
    entry (lineRegs c prog q k) d = entry (lineRegs c prog q j) d := by
  induction k, hjk using Nat.le_induction with
  | base => rfl
  | succ k hjk ih =>
    rw [entry_lineRegs_of_not_writes (h k hjk (Nat.lt_succ_self k)),
      ih fun l hl hlk => h l hl (hlk.trans (Nat.lt_succ_self k))]

/-- A register holds what the last record of the line that writes it computed. -/
theorem entry_lineRegs_of_last_writer {d : RegIx} {j : Nat} (hjk : j < k) (hj : lineWrites c prog q d j)
    (h : ∀ l, j < l → l < k → ¬lineWrites c prog q d l) :
    entry (lineRegs c prog q k) d = (lineResult c prog q j).value := by
  rw [entry_lineRegs_of_unwritten (Nat.succ_le_of_lt hjk) fun l hl => h l hl, entry_lineRegs_of_writes hj]

end Line

/-! ### One step of the sequential machine -/

theorem wrap_wrap (x : XLen) (v : Int) : wrap x (wrap x v) = wrap x v := by
  by_cases hx : x = .bits 0
  · simp [hx, wrap]
  · exact wrap_of_inVal hx (inVal_wrap x v)

theorem wrap_resultAt_value (c : Config) {i : Record} (h : i.op.isBranch = false) (ip : Nat) (x : Vector Val 32) :
    wrap c.xlen (resultAt c i ip x).value = (resultAt c i ip x).value := by
  cases hop : i.op <;> rw [hop] at h <;> rw [resultAt, hop]
  case beq | bne => cases h
  all_goals exact wrap_wrap _ _

theorem seqStep_eq {c : Config} {prog : List Record} {q : SeqState} {i : Record} (h : prog[q.ip]? = some i) :
    seqStep c prog q = seqExec c i q := by
  simp only [seqStep, h]

section SeqExec
variable (c : Config) (i : Record) (q : SeqState)

theorem seqExec_x : (seqExec c i q).x = regsAfter c i q.ip q.x := by
  unfold seqExec regsAfter writesRegister resultAt
  cases i.op.isBranch <;> cases i.op.isStore <;> cases c.storeCommitWritesRd <;> rfl

theorem seqExec_executed : (seqExec c i q).executed = q.executed + 1 := by
  unfold seqExec
  split <;> rfl

theorem seqExec_of_not_branch (h : i.op.isBranch = false) :
    (seqExec c i q).ip = q.ip + 1 ∧ (seqExec c i q).taken = q.taken := by
  simp [seqExec, h]

theorem seqExec_of_branch (h : i.op.isBranch = true) :
    (seqExec c i q).ip = (if (resultAt c i q.ip q.x).shouldBranch then (resultAt c i q.ip q.x).targetPc else q.ip + 1) ∧
      (seqExec c i q).taken = if (resultAt c i q.ip q.x).shouldBranch then q.taken + 1 else q.taken := by
  rw [seqExec, if_pos h]
  exact ⟨rfl, rfl⟩

end SeqExec

/-- `n + 1` steps end with one step. -/
theorem seqRun_succ (c : Config) (prog : List Record) (n : Nat) (q : SeqState) :
    seqRun c prog (n + 1) q = seqStep c prog (seqRun c prog n q) := by
  induction n generalizing q with
  | zero => rfl
  | succ n ih => exact ih (seqStep c prog q)

/-! ### The simulation relation -/

/-- Operand `o` of the record `k` places after `q`, for source register `d`, is what the line holds there: its value, or
the tag of the slot that will compute it. -/
def OperandTracks (c : Config) (prog : List Record) (q : SeqState) (m : Snapshot) (k : Nat) (d : RegIx) : Operand → Prop
  | .val v => v = entry (lineRegs c prog q k) d
  | .tag b => (lineResult c prog q (age m b)).value = entry (lineRegs c prog q k) d

/-- The engine with `n` records in flight follows the sequential machine in state `q`. -/
structure Tracks (c : Config) (prog : List Record) (q : SeqState) (n : Nat) (m : Snapshot) : Prop where
  fifo : Fifo n m
  regs : m.rf = q.x
  executed : m.committed = q.executed
  taken : m.flushes = q.taken
  pc : m.pc = q.ip + n
  fetched : ∀ b, (entry m.rob b).busy = true → (entry m.rob b).instr = prog[q.ip + age m b]?
  ready : ∀ b, (entry m.rob b).busy = true → (entry m.rob b).state = .ready →
    (⟨(entry m.rob b).value, (entry m.rob b).shouldBranch, (entry m.rob b).targetPc⟩ : Result) =
      lineResult c prog q (age m b)
  issued : ∀ r, (entry m.rs r).busy = true → (entry m.rs r).pcIssue = q.ip + age m (entry m.rs r).dest
  sources : ∀ r i, (entry m.rs r).busy = true → (entry m.rob (entry m.rs r).dest).instr = some i →
    OperandTracks c prog q m (age m (entry m.rs r).dest) i.rs1 (entry m.rs r).j ∧
      OperandTracks c prog q m (age m (entry m.rs r).dest) i.rs2 (entry m.rs r).k

theorem Tracks.of_quiescent {c : Config} {prog : List Record} {q : SeqState} {m : Snapshot} (h : Quiescent m)
    (hregs : m.rf = q.x) (hexecuted : m.committed = q.executed) (htaken : m.flushes = q.taken) (hpc : m.pc = q.ip) :
    Tracks c prog q 0 m := by
  obtain ⟨hrs, hrob, -, hht⟩ := h
  have hb : ∀ b, (entry m.rob b).busy ≠ true := fun b => by simp [hrob, emptyRob]
  have hr : ∀ r, (entry m.rs r).busy ≠ true := fun r => by simp [hrs, emptyRs]
  exact ⟨.of_empty hrob hht, hregs, hexecuted, htaken, hpc, fun b h => absurd h (hb b), fun b h => absurd h (hb b),
    fun r h => absurd h (hr r), fun r _ h => absurd h (hr r)⟩

section
variable {c : Config} {prog : List Record} {q : SeqState} {n : Nat} {m : Snapshot}

/-! ### Writeback -/

/-- A station whose operands are there computes what the line computes at its place. -/
theorem Tracks.stationResult_eq (h : Tracks c prog q n m) (hinv : PipelineInv prog m) {p : RsIx}
    (hp : (entry m.rs p).eligible = true) :
    stationResult c m (entry m.rs p) = lineResult c prog q (age m (entry m.rs p).dest) := by
  obtain ⟨hbusy, -, ⟨a, ha⟩, b, hb⟩ := (RsEntry.eligible_iff _).mp hp
  obtain ⟨i, hi, hop⟩ := hinv.slot_instr hbusy
  have hfetch := h.fetched _ (hinv.slot_busy hbusy)
  obtain ⟨hj, hk⟩ := h.sources p i hbusy hi
  rw [ha] at hj
  rw [hb] at hk
  rw [lineResult_eq (hfetch.symm.trans hi), resultAt, stationResult, ha, hb, hi, ← hop, h.issued p hbusy, ← hj, ← hk]
  rfl

theorem OperandTracks.forward {k : Nat} {d : RegIx} {o : Operand} (h : OperandTracks c prog q m k d o) {b : RobIx}
    {v : Val}
    (hv : v = (lineResult c prog q (age m b)).value) : OperandTracks c prog q m k d (o.forward b v) := by
  unfold Operand.forward
  split
  next ho => rw [ho] at h; exact hv.trans h
  next => exact h

theorem OperandTracks.congr {m' : Snapshot} {k : Nat} {d : RegIx} {o : Operand} (h : OperandTracks c prog q m k d o)
    (hhead : m'.head = m.head) : OperandTracks c prog q m' k d o := by
  cases o with
  | val v => exact h
  | tag b =>
    rw [OperandTracks, age_eq, hhead]
    exact h

theorem Tracks.broadcast (h : Tracks c prog q n m) (hinv : PipelineInv prog m) {p : RsIx}
    (hp : (entry m.rs p).eligible = true) : Tracks c prog q n (broadcast c m p) where
  fifo := h.fifo.congr rfl rfl (entry_broadcast_rob_busy c m p)
  regs := h.regs
  executed := h.executed
  taken := h.taken
  pc := h.pc
  fetched b hb := by
    rw [entry_broadcast_rob_busy] at hb
    rw [entry_broadcast_rob_instr]
    exact h.fetched b hb
  ready b hb hready := by
    rw [entry_broadcast_rob_busy] at hb
    by_cases hdest : b = (entry m.rs p).dest
    · rw [broadcast_rob, hdest, entry_setEntry_same]
      exact h.stationResult_eq hinv hp
    · rw [broadcast_rob, entry_setEntry_ne _ _ hdest] at hready ⊢
      exact h.ready b hb hready
  issued r hr := by
    obtain ⟨-, hbusy, heq⟩ := of_broadcast_rs_busy hr
    have hprogress := RsEntry.progress_forward (entry m.rs r) (entry m.rs p).dest
      (stationResult c m (entry m.rs p)).value
    rw [heq, hprogress.pcIssue, hprogress.dest]
    exact h.issued r hbusy
  sources r i hr hi := by
    obtain ⟨-, hbusy, heq⟩ := of_broadcast_rs_busy hr
    rw [heq, RsEntry.forward_of_busy hbusy] at hi ⊢
    rw [entry_broadcast_rob_instr] at hi
    obtain ⟨hj, hk⟩ := h.sources r i hbusy hi
    have hv := congrArg Result.value (h.stationResult_eq hinv hp)
    exact ⟨(hj.forward hv).congr rfl, (hk.forward hv).congr rfl⟩

/-! ### Execute -/

theorem Tracks.execute (h : Tracks c prog q n m) : Tracks c prog q n (executeStage m) := by
  refine ⟨h.fifo.congr rfl rfl fun _ => rfl, h.regs, h.executed, h.taken, h.pc, h.fetched, h.ready, fun r => ?_,
    fun r i => ?_⟩
  · rw [entry_executeStage, RsEntry.tick_frame]
    exact h.issued r
  · rw [entry_executeStage, RsEntry.tick_frame]
    intro hr hi
    obtain ⟨hj, hk⟩ := h.sources r i hr hi
    exact ⟨hj.congr rfl, hk.congr rfl⟩

/-! ### Commit -/

theorem Tracks.head_fetched (h : Tracks c prog q n m) {i : Record} (hi : HeadReady m i) : prog[q.ip]? = some i := by
  have hfetch := h.fetched _ hi.busy
  rw [age_eq, ageFrom_self, hi.instr] at hfetch
  exact hfetch.symm

theorem Tracks.head_result (h : Tracks c prog q n m) {i : Record} (hi : HeadReady m i) :
    (⟨(entry m.rob m.head).value, (entry m.rob m.head).shouldBranch, (entry m.rob m.head).targetPc⟩ : Result) =
      resultAt c i q.ip q.x := by
  have hresult := h.ready _ hi.busy hi.ready
  rw [age_eq, ageFrom_self, lineResult_eq (k := 0) (h.head_fetched hi)] at hresult
  exact hresult

theorem OperandTracks.retired {m' : Snapshot} {q' : SeqState} {i : Record} (hm' : Retired m m')
    (hi : prog[q.ip]? = some i)
    (hip : q'.ip = q.ip + 1) (hx : q'.x = regsAfter c i q.ip q.x) {k : Nat} {d : RegIx} {o : Operand}
    (ho : ∀ b, o = .tag b → b ≠ m.head) (h : OperandTracks c prog q m (k + 1) d o) :
    OperandTracks c prog q' m' k d o := by
  cases o with
  | val v =>
    rw [OperandTracks, lineRegs_tail hi hip hx]
    exact h
  | tag b =>
    rw [OperandTracks, lineRegs_tail hi hip hx, lineResult_tail hi hip hx, hm'.age_succ (ho b rfl)]
    exact h

/-- The engine's retirement of the head is the sequential machine's step to the next index. -/
theorem Tracks.retired (h : Tracks c prog q n m) (hinv : PipelineInv prog m) (htags : TagInv m) {m' : Snapshot}
    {q' : SeqState} {i : Record} (hm' : Retired m m') (hi : HeadReady m i) (hip : q'.ip = q.ip + 1)
    (hx : q'.x = regsAfter c i q.ip q.x) (hregs : m'.rf = q'.x) (hexecuted : m'.committed = q'.executed)
    (htaken : m'.flushes = q'.taken) : Tracks c prog q' (n - 1) m' := by
  have hfetch := h.head_fetched hi
  obtain ⟨n, rfl⟩ := Nat.exists_eq_succ_of_ne_zero (h.fifo.head_busy_iff.mp hi.busy).ne'
  have hplace : ∀ {b}, b ≠ m.head → q'.ip + age m' b = q.ip + age m b := fun hb => by
    have := hm'.age_succ hb
    omega
  refine ⟨h.fifo.retire hm'.head hm'.tail hm'.rob, hregs, hexecuted, htaken, ?_, fun b hb => ?_, fun b hb hready => ?_,
    fun r hr => ?_, fun r j hr hj => ?_⟩
  · rw [hm'.pc, h.pc]
    omega
  · obtain ⟨hne, hb⟩ := hm'.busy_iff.mp hb
    rw [hm'.entry_rob_ne hne, hplace hne, h.fetched b hb]
  · obtain ⟨hne, hb⟩ := hm'.busy_iff.mp hb
    rw [hm'.entry_rob_ne hne] at hready ⊢
    rw [h.ready b hb hready, lineResult_tail hfetch hip hx, hm'.age_succ hne]
  · rw [hm'.rs] at hr ⊢
    rw [hplace (hi.dest_ne hinv hr), h.issued r hr]
  · rw [hm'.rs] at hr hj ⊢
    have hne := hi.dest_ne hinv hr
    rw [hm'.entry_rob_ne hne] at hj
    obtain ⟨hjs, hks⟩ := h.sources r j hr hj
    rw [← hm'.age_succ hne] at hjs hks
    have hlive : ∀ b, (entry m.rs r).j = .tag b ∨ (entry m.rs r).k = .tag b → b ≠ m.head := fun b hb he => by
      have hx := (htags r b hr hb).2
      rw [he, hi.ready] at hx
      exact RobState.noConfusion hx
    exact ⟨hjs.retired hm' hfetch hip hx fun b hb => hlive b (.inl hb),
      hks.retired hm' hfetch hip hx fun b hb => hlive b (.inr hb)⟩

/-- The register write of Commit is the sequential one: a result is wrapped already. -/
theorem Tracks.commitWrite_rf (h : Tracks c prog q n m) (hinv : PipelineInv prog m) {i : Record} (hi : HeadReady m i)
    (hop : i.op.isBranch = false) : (commitWrite c m (entry m.rob m.head) i).rf = regsAfter c i q.ip q.x := by
  obtain ⟨i', hi', hdest⟩ := hinv.record hi.busy
  obtain rfl : i = i' := Option.some.inj (hi.instr.symm.trans hi')
  have hvalue : wrap c.xlen (entry m.rob m.head).value = (resultAt c i q.ip q.x).value := by
    rw [← wrap_resultAt_value c hop, ← h.head_result hi]
  rw [commitWrite_rf_eq c m hop (hdest.trans (destOf_of_not_branch hop)), hvalue, h.regs, regsAfter]

theorem regsAfter_of_branch {i : Record} (h : i.op.isBranch = true) (ip : Nat) (x : Vector Val 32) :
    regsAfter c i ip x = x := by
  simp [regsAfter, writesRegister, h]

/-- Commit follows the sequential machine: it does nothing, or one step of it. -/
theorem Tracks.commit (h : Tracks c prog q n m) (hinv : PipelineInv prog m) (htags : TagInv m) :
    ∃ q' n', (q' = q ∨ q' = seqStep c prog q) ∧ Tracks c prog q' n' (commitStage c m) := by
  rcases commitStage_cases c m with ⟨-, heq⟩ | ⟨hb, hr, i, hinstr, hcases⟩
  · exact ⟨q, n, .inl rfl, by rwa [heq]⟩
  have hi : HeadReady m i := ⟨hb, hr, hinstr⟩
  have hresult := h.head_result hi
  have hx := seqExec_x c i q
  have hexecuted := seqExec_executed c i q
  have hstep := seqStep_eq (c := c) (h.head_fetched hi)
  rcases hcases with ⟨hop, heq⟩ | ⟨hop, hsb, heq⟩ | ⟨hop, hsb, heq⟩
  · obtain ⟨hip, htaken⟩ := seqExec_of_not_branch c i q hop
    refine ⟨seqExec c i q, n - 1, .inr hstep.symm, ?_⟩
    rw [heq]
    refine h.retired hinv htags (hi.retired_of_not_branch hinv c hop) hi hip hx ?_ ?_ ?_
    · rw [retireHead_rf, h.commitWrite_rf hinv hi hop, hx]
    · rw [retireHead_committed, commitWrite_committed, h.executed, hexecuted]
    · rw [retireHead_flushes, commitWrite_flushes, h.taken, htaken]
  · obtain ⟨hip, htaken⟩ := seqExec_of_branch c i q hop
    rw [← hresult, hsb, if_neg Bool.false_ne_true] at hip htaken
    refine ⟨seqExec c i q, n - 1, .inr hstep.symm, ?_⟩
    rw [heq]
    refine h.retired hinv htags (hi.retired_of_branch hinv hop) hi hip hx ?_ ?_ ?_
    · rw [retireHead_rf, hx, regsAfter_of_branch hop, h.regs]
    · rw [retireHead_committed, h.executed, hexecuted]
    · rw [retireHead_flushes, h.taken, htaken]
  · obtain ⟨hip, htaken⟩ := seqExec_of_branch c i q hop
    rw [← hresult, hsb, if_pos rfl] at hip htaken
    refine ⟨seqExec c i q, 0, .inr hstep.symm, ?_⟩
    rw [heq]
    refine .of_quiescent (quiescent_commitMispredicted m _ i) ?_ ?_ ?_ ?_
    · rw [commitMispredicted_rf, hx, regsAfter_of_branch hop, h.regs]
    · rw [commitMispredicted_committed, h.executed, hexecuted]
    · rw [commitMispredicted_flushes, h.taken, htaken]
    · rw [commitMispredicted_pc, hip]

/-! ### Issue -/

theorem writesRename_iff (op : Op) : op.writesRename = true ↔ op.isBranch = false ∧ op.isStore = false := by
  cases op <;> simp [Op.writesRename, Op.isBranch, Op.isStore]

theorem storeInFlight_of_busy {d : RegIx} {b : RobIx} {i : Record} (hb : (entry m.rob b).busy = true)
    (hi : (entry m.rob b).instr = some i) (hop : i.op.isStore = true) (hd : i.rd = d) : storeInFlight m d = true :=
  List.any_eq_true.mpr ⟨b, List.mem_finRange b, by simp [hb, hi, hop, hd]⟩

/-- With no store to `d` in flight that will write it, the records of the line that write `d` are the renaming
writers. -/
theorem Tracks.lineWrites_iff (h : Tracks c prog q n m) {d : RegIx}
    (hstore : c.storeCommitWritesRd = true → storeInFlight m d = false) {b : RobIx} (hb : (entry m.rob b).busy = true) :
    lineWrites c prog q d (age m b) ↔ renamingWriter m d b = true := by
  rw [lineWrites, ← h.fetched b hb, renamingWriter_iff, and_iff_right hb]
  refine exists_congr fun i => and_congr_right fun hi => and_congr_left fun hd => ?_
  rw [writesRename_iff, writesRegister]
  cases hop : i.op.isStore with
  | false => simp
  | true =>
    cases hparam : c.storeCommitWritesRd with
    | false => simp
    | true =>
      have := hstore hparam
      simp [storeInFlight_of_busy hb hi hop hd] at this

/-- A source read at Issue, with no store to it in flight that will write it, is what the line holds at the next
place. -/
theorem Tracks.readOperand (h : Tracks c prog q n m) (hinv : PipelineInv prog m) {d : RegIx}
    (hstore : c.storeCommitWritesRd = true → storeInFlight m d = false) :
    OperandTracks c prog q m n d (readOperand c m d) := by
  have hplace : ∀ {k}, k < n → (entry m.rob (slotAt m.head k)).busy = true ∧ age m (slotAt m.head k) = k := fun hk => by
    have hage := ageFrom_slotAt m.head (hk.trans_le h.fifo.le)
    exact ⟨(h.fifo.busy _).mpr (by rw [hage]; exact hk), hage⟩
  rcases readOperand_cases c m d with ⟨hfree, hread⟩ | ⟨y, hy, hread⟩
  · have hunwritten : ∀ l, 0 ≤ l → l < n → ¬lineWrites c prog q d l := fun l _ hl hw => by
      obtain ⟨hbusy, hage⟩ := hplace hl
      rw [← hage, h.lineWrites_iff hstore hbusy, hinv.no_writer hfree] at hw
      exact Bool.noConfusion hw
    rw [hread, OperandTracks, entry_lineRegs_of_unwritten (Nat.zero_le n) hunwritten, h.regs]
    rfl
  · obtain ⟨hwriter, hmax⟩ := hinv.youngest hy
    have hbusy := hinv.claimant_busy hy
    have hlast : entry (lineRegs c prog q n) d = (lineResult c prog q (age m y)).value := by
      refine entry_lineRegs_of_last_writer ((h.fifo.busy y).mp hbusy) ((h.lineWrites_iff hstore hbusy).mpr hwriter)
        fun l hl hln hw => ?_
      obtain ⟨hbusy', hage⟩ := hplace hln
      rw [← hage, h.lineWrites_iff hstore hbusy'] at hw
      have := hmax _ hw
      omega
    rcases hread with ⟨-, hready, hread⟩ | ⟨-, hread⟩
    · rw [hread, OperandTracks, hlast, ← h.ready y hbusy hready]
    · rw [hread]
      exact hlast.symm

theorem Tracks.dispatch (h : Tracks c prog q n m) (hinv : PipelineInv prog m) {i : Record} {r : RsIx}
    (hfetch : prog[m.pc]? = some i) (hfree : (entry m.rob m.tail).busy = false)
    (hstore : ∀ d, (d = i.rs1 ∨ d = i.rs2) → c.storeCommitWritesRd = true → storeInFlight m d = false) :
    Tracks c prog q (n + 1) (dispatch c m i r) := by
  have htail : ageFrom m.head m.tail = n := h.fifo.ageFrom_tail (h.fifo.lt_of_tail_free hfree)
  have hage : ∀ b, age (Machine.dispatch c m i r) b = ageFrom m.head b := fun b => rfl
  refine ⟨h.fifo.claim hfree (e := issuedRob i) rfl rfl rfl rfl, h.regs, h.executed, h.taken, ?_, fun b hb => ?_,
    fun b hb hready => ?_, fun p hp => ?_, fun p i' hp hi' => ?_⟩
  · rw [dispatch_pc, h.pc, Nat.add_assoc]
  · by_cases hbt : b = m.tail
    · rw [hbt, dispatch_entry_rob_tail, hage, htail, ← h.pc, hfetch]
      rfl
    · rw [dispatch_entry_rob_ne c m i r hbt] at hb ⊢
      exact h.fetched b hb
  · by_cases hbt : b = m.tail
    · rw [hbt, dispatch_entry_rob_tail] at hready
      exact RobState.noConfusion hready
    · rw [dispatch_entry_rob_ne c m i r hbt] at hb hready ⊢
      exact h.ready b hb hready
  · by_cases hpr : p = r
    · rw [hpr, dispatch_entry_rs_same, hage]
      show m.pc = q.ip + ageFrom m.head m.tail
      rw [htail, h.pc]
    · rw [dispatch_entry_rs_ne c m i r hpr] at hp ⊢
      exact h.issued p hp
  · by_cases hpr : p = r
    · have hown : entry (Machine.dispatch c m i r).rob (issuedRs c m i).dest = issuedRob i :=
        dispatch_entry_rob_tail c m i r
      rw [hpr, dispatch_entry_rs_same] at hi' ⊢
      rw [hown] at hi'
      obtain rfl : i = i' := Option.some.inj hi'
      have hn : age (Machine.dispatch c m i r) (issuedRs c m i).dest = n := htail
      rw [hn]
      exact ⟨(h.readOperand hinv (hstore _ (.inl rfl))).congr rfl, (h.readOperand hinv (hstore _ (.inr rfl))).congr rfl⟩
    · rw [dispatch_entry_rs_ne c m i r hpr] at hp hi' ⊢
      rw [dispatch_entry_rob_ne c m i r (hinv.dest_ne_tail hfree hp)] at hi'
      obtain ⟨hj, hk⟩ := h.sources p i' hp hi'
      exact ⟨hj.congr rfl, hk.congr rfl⟩

end

/-! ### The cycle and the run -/

/-- The engine follows some state of the sequential machine's run from registers `x`. -/
structure Simulates (c : Config) (prog : List Record) (x : Vector Val 32) (m : Snapshot) : Prop where
  pipeline : PipelineInv prog m
  tags : TagInv m
  tracks : ∃ k n, Tracks c prog (seqRun c prog k (SeqState.start x)) n m

theorem no_storeInFlight {s : State} (hevent : unrenamedStoreEvent s = false) {i : Record} (hi : issuedNext s = some i)
    {d : RegIx} (hd : d = i.rs1 ∨ d = i.rs2) (hparam : s.cfg.storeCommitWritesRd = true) :
    storeInFlight (stagesBeforeIssue s.cfg s.live) d = false := by
  simp only [unrenamedStoreEvent, hi, hparam, Option.any_some, Bool.true_and, Bool.or_eq_false_iff,
    beginCycle_live] at hevent
  obtain ⟨h1, h2⟩ := hevent
  rcases hd with rfl | rfl
  · exact h1
  · exact h2

theorem Tracks.stagesBeforeIssue {c : Config} {prog : List Record} {q : SeqState} {n : Nat} {m : Snapshot}
    (h : Tracks c prog q n m) (hinv : PipelineInv prog m) (htags : TagInv m) :
    ∃ q' n', (q' = q ∨ q' = seqStep c prog q) ∧ Tracks c prog q' n' (stagesBeforeIssue c m) := by
  obtain ⟨q', n', hq', hcommit⟩ := h.commit hinv htags
  have hwriteback : PipelineInv prog (writebackStage c (commitStage c m)) ∧
      Tracks c prog q' n' (writebackStage c (commitStage c m)) :=
    writebackStage_keeps c (P := fun m => PipelineInv prog m ∧ Tracks c prog q' n' m)
      (fun m p hp ⟨hinv, htracks⟩ => ⟨hinv.broadcast c hp, htracks.broadcast hinv hp⟩) ⟨hinv.commit c, hcommit⟩
  exact ⟨q', n', hq', hwriteback.2.execute⟩

theorem Tracks.congr {c : Config} {prog : List Record} {q : SeqState} {n : Nat} {m m' : Snapshot}
    (h : Tracks c prog q n m)
    (hm' : m' = { m with cycle := m'.cycle, bubbles := m'.bubbles }) : Tracks c prog q n m' := by
  rw [hm']
  exact ⟨h.fifo.congr rfl rfl fun _ => rfl, h.regs, h.executed, h.taken, h.pc, h.fetched, h.ready, h.issued,
    fun r i hr hi => ⟨(h.sources r i hr hi).1.congr rfl, (h.sources r i hr hi).2.congr rfl⟩⟩

/-- A cycle without a hazard event keeps the simulation. -/
theorem Simulates.runCycle {s : State} {x : Vector Val 32} (h : Simulates s.cfg s.prog x s.live)
    (hstale : staleTagEvent s = false) (hunrenamed : unrenamedStoreEvent s = false) :
    Simulates s.cfg s.prog x (runCycle s).live := by
  obtain ⟨k, n, htracks⟩ := h.tracks
  obtain ⟨q, n', hq, hbefore⟩ := htracks.stagesBeforeIssue h.pipeline h.tags
  obtain ⟨k', rfl⟩ : ∃ k', q = seqRun s.cfg s.prog k' (SeqState.start x) := by
    rcases hq with rfl | rfl
    · exact ⟨k, rfl⟩
    · exact ⟨k + 1, (seqRun_succ _ _ _ _).symm⟩
  refine ⟨(PipelineInv.keptByStages s.cfg s.prog).nextLive h.pipeline, h.tags.runCycle h.pipeline hstale, k', ?_⟩
  rw [runCycle_live]
  rcases issuedNext_cases (beginCycle_live s) with ⟨-, heq | heq⟩ | ⟨i, r, hi, hfetch, -, hfree, heq⟩
  · exact ⟨n', by rw [heq]; exact hbefore.congr rfl⟩
  · exact ⟨n', by rw [heq]; exact hbefore.congr rfl⟩
  · refine ⟨n' + 1, ?_⟩
    rw [heq]
    exact (hbefore.dispatch (h.pipeline.stagesBeforeIssue s.cfg) hfetch hfree
      fun d hd => no_storeInFlight hunrenamed hi hd).congr rfl

@[simp] theorem runSteps_cfg (n : Nat) (s : State) : (runSteps n s).cfg = s.cfg := by
  induction n generalizing s with
  | zero => rfl
  | succ n ih => exact ih (runCycle s)

@[simp] theorem runSteps_prog (n : Nat) (s : State) : (runSteps n s).prog = s.prog := by
  induction n generalizing s with
  | zero => rfl
  | succ n ih => exact ih (runCycle s)

theorem Simulates.runSteps {n : Nat} {s : State} {x : Vector Val 32} (h : Simulates s.cfg s.prog x s.live)
    (hfree : hazardFree n s = true) : Simulates s.cfg s.prog x (runSteps n s).live := by
  induction n generalizing s with
  | zero => exact h
  | succ n ih =>
    rw [hazardFree, Bool.and_eq_true, Bool.and_eq_true, Bool.not_eq_true', Bool.not_eq_true'] at hfree
    obtain ⟨⟨hstale, hunrenamed⟩, hfree⟩ := hfree
    exact ih (s := Machine.runCycle s) (h.runCycle hstale hunrenamed) hfree

theorem Simulates.of_fresh (c : Config) (prog : List Record) (x : Vector Val 32) :
    Simulates c prog x (freshSnapshot x) :=
  ⟨.of_quiescent prog (quiescent_fresh x), .of_quiescent (quiescent_fresh x), 0, 0,
    .of_quiescent (quiescent_fresh x) rfl rfl rfl rfl⟩

/-- When the run is complete nothing is in flight, so the engine is where the sequential machine is. -/
theorem Tracks.of_complete {c : Config} {prog : List Record} {q : SeqState} {n : Nat} {s : State}
    (h : Tracks c prog q n s.live) (hprog : s.prog = prog) (hcomplete : isComplete s = true) : prog.length ≤ q.ip := by
  rw [← hprog]
  rw [isComplete, Bool.and_eq_true, decide_eq_true_iff, Bool.not_eq_true', Bool.eq_false_iff, ne_eq,
    h.fifo.head_busy_iff] at hcomplete
  obtain ⟨hend, hempty⟩ := hcomplete
  have := h.pc
  omega

/-- Settles O56: the simulation holds after the load, each hazard-free cycle keeps it, and a complete run has nothing
left in flight. -/
theorem hazardFreeRunsAreSequential : Obligations.HazardFreeRunsAreSequential := by
  intro s s0 p n hp hload hfree hcomplete
  obtain ⟨q, hok, -, -⟩ := checkProgram_of_wf hp
  rw [exec_loadProgram, loadEngine_of_ok hok] at hload
  obtain rfl : installProgram s q = s0 := Host.Outcome.next.inj hload
  have hsim : Simulates s.cfg q s.cfg.regSeed (runSteps n (installProgram s q)).live :=
    Simulates.runSteps (s := installProgram s q) (.of_fresh _ _ _) hfree
  obtain ⟨k, n', htracks⟩ := hsim.tracks
  exact ⟨k, htracks.of_complete (runSteps_prog n _) hcomplete, htracks.regs.symm, htracks.executed.symm,
    htracks.taken.symm⟩

end Sys2Proof.Machine
end

section
/-! PROOF. A stream instruction at Issue (40_engine_cycle R134 to R140), and its whole life when nothing else is in
flight (R142): the cycle that issues it, one cycle for each step of its countdown, the cycle that writes it back and the
one that commits it. -/

namespace Sys2Proof.Machine

/-! ### Issue -/

theorem exec_ofRecord (i : Record) (s : State) : exec (.ofRecord i) s = .next (runCycleIssuing i s) := by
  obtain ⟨op, rd, rs1, rs2, off⟩ := i
  cases op <;> rfl

theorem freeStation_of_firstFreeAdd {m : Snapshot} {r : RsIx} (h : FirstFreeAdd m r) :
    freeStation m.rs .addClass = some r := by
  obtain ⟨hr, hfree, hbefore⟩ := h
  have hcases : ∀ q : RsIx, q.val < 3 → q = 0 ∨ q = 1 ∨ q = 2 := by decide
  rcases hcases r hr with rfl | rfl | rfl
  · simp [freeStation, stationsOf, hfree]
  · simp [freeStation, stationsOf, hfree, hbefore 0 (by decide)]
  · simp [freeStation, stationsOf, hfree, hbefore 0 (by decide), hbefore 1 (by decide)]

theorem freeStation_of_firstFreeMul {m : Snapshot} {r : RsIx} (h : FirstFreeMul m r) :
    freeStation m.rs .mulClass = some r := by
  obtain ⟨hr, hfree, hbefore⟩ := h
  have hcases : ∀ q : RsIx, 3 ≤ q.val → q = 3 ∨ q = 4 := by decide
  rcases hcases r hr with rfl | rfl
  · simp [freeStation, stationsOf, hfree]
  · simp [freeStation, stationsOf, hfree, hbefore 3 (by decide) (by decide)]

/-- A record with a free station and a free slot is issued, with the latency, destination and claim of its operation. -/
theorem runCycleIssuing_of_free {s : State} {i : Record} {r : RsIx}
    (hstation : freeStation (beginCycle s).live.rs (opClass i.op) = some r)
    (hslot : (entry (beginCycle s).live.rob (beginCycle s).live.tail).busy = false) :
    runCycleIssuing i s = afterIssue s i r (latency i.op) (destOf i) i.op.writesRename := by
  rw [runCycleIssuing, beginCycle_cfg, offer_of_free _ hstation hslot]
  rfl

theorem runCycleIssuing_of_not_free {s : State} {i : Record}
    (h : freeStation (beginCycle s).live.rs (opClass i.op) = none ∨
      (entry (beginCycle s).live.rob (beginCycle s).live.tail).busy = true) :
    runCycleIssuing i s = afterBubble s := by
  rcases offer_cases s.cfg (beginCycle s).live i with ⟨-, hbubble⟩ | ⟨r, hr, hfree, -⟩
  · rw [runCycleIssuing, beginCycle_cfg, hbubble]
    rfl
  · rcases h with hnone | hfull
    · cases hr.symm.trans hnone
    · cases hfree.symm.trans hfull

/-- Settles O9: the first free station is the one Issue chooses, and each operation's row of the tables is read off. -/
theorem streamInstructionsIssue : Obligations.StreamInstructionsIssue := by
  intro s rd rs1 rs2 off r hslot
  have hissue : ∀ op, freeStation (beginCycle s).live.rs (opClass op) = some r →
      exec (.ofRecord ⟨op, rd, rs1, rs2, off⟩) s =
        .next (afterIssue s ⟨op, rd, rs1, rs2, off⟩ r (latency op) (destOf ⟨op, rd, rs1, rs2, off⟩) op.writesRename) :=
    fun op hstation => by rw [exec_ofRecord, runCycleIssuing_of_free hstation hslot]
  refine ⟨fun hfirst => ?_, fun hfirst => ?_⟩
  · have hstation := freeStation_of_firstFreeAdd hfirst
    exact ⟨hissue .add hstation, hissue .sub hstation, hissue .lw hstation, hissue .sw hstation, hissue .beq hstation,
      hissue .bne hstation⟩
  · have hstation := freeStation_of_firstFreeMul hfirst
    exact ⟨hissue .mul hstation, hissue .div hstation⟩

/-- Settles O10: without a free station of the class or a free slot the offer is a bubble, whatever the operation. -/
theorem streamInstructionsWait : Obligations.StreamInstructionsWait := by
  intro s rd rs1 rs2 off
  have hwait : ∀ op, ((entry (beginCycle s).live.rob (beginCycle s).live.tail).busy = true ∨
        ∀ q ∈ stationsOf (opClass op), (entry (beginCycle s).live.rs q).busy = true) →
      exec (.ofRecord ⟨op, rd, rs1, rs2, off⟩) s = .next (afterBubble s) :=
    fun op h => by rw [exec_ofRecord, runCycleIssuing_of_not_free (h.symm.imp_left freeStation_none.mpr)]
  refine ⟨fun h => ?_, fun h => ?_⟩
  · have hadd : _ ∨ ∀ q ∈ stationsOf .addClass, _ := h.imp_right fun hall q hq => hall q (by revert q; decide)
    simp only [List.forall_mem_cons]
    exact ⟨hwait .add hadd, hwait .sub hadd, hwait .lw hadd, hwait .sw hadd, hwait .beq hadd, hwait .bne hadd, by simp⟩
  · have hmul : _ ∨ ∀ q ∈ stationsOf .mulClass, _ := h.imp_right fun hall q hq => hall q (by revert q; decide)
    simp only [List.forall_mem_cons]
    exact ⟨hwait .mul hmul, hwait .div hmul, by simp⟩

/-! ### Stages with nothing to do -/

theorem writebackStage_of_none (c : Config) {m : Snapshot} (h : ∀ r, (entry m.rs r).eligible = false) :
    writebackStage c m = m := by
  have hnone : eligibleStations m = [] := List.filter_eq_nil_iff.mpr fun r _ => by simp [h]
  rw [writebackStage, hnone, List.foldl_nil]

/-- The countdown of stations one of which may be busy. -/
theorem tick_setEntry (r : RsIx) (e : RsEntry) :
    (tabulate fun p => (entry (setEntry (filled 5 emptyRs) r e) p).tick) = setEntry (filled 5 emptyRs) r e.tick :=
  table_ext fun p => by
    rw [entry_tabulate, entry_setEntry, entry_setEntry]
    split
    · rfl
    · rw [entry_filled]
      rfl

theorem setEntry_filled {α : Type} {n : Nat} (i : Fin n) (x : α) : setEntry (filled n x) i x = filled n x :=
  table_ext fun j => by rw [entry_setEntry, entry_filled, ite_self]

theorem executeStage_of_rs {m : Snapshot} {r : RsIx} {e : RsEntry} (h : m.rs = setEntry (filled 5 emptyRs) r e) :
    executeStage m = { m with rs := setEntry (filled 5 emptyRs) r e.tick } := by
  rw [executeStage, h, tick_setEntry]

/-- With no station busy Writeback and Execute change nothing. -/
theorem execute_writeback_of_idle (c : Config) {m : Snapshot} (h : m.rs = filled 5 emptyRs) :
    executeStage (writebackStage c m) = m := by
  rw [writebackStage_of_none c fun r => by rw [h, entry_filled]; rfl,
    executeStage_of_rs (r := 0) (e := emptyRs) (by rw [setEntry_filled, h])]
  have htick : emptyRs.tick = emptyRs := rfl
  rw [htick, setEntry_filled, ← h]

theorem stagesBeforeIssue_of_quiescent (c : Config) {m : Snapshot} (h : Quiescent m) : stagesBeforeIssue c m = m := by
  obtain ⟨hrs, hrob, -, -⟩ := h
  have hcommit : commitStage c m = m := commitStage_idle c (.inl (by rw [hrob, entry_filled]; rfl))
  rw [stagesBeforeIssue, hcommit, execute_writeback_of_idle c hrs]

theorem issueStage_past_end (c : Config) {prog : List Record} {m : Snapshot} (h : prog.length ≤ m.pc) :
    issueStage c prog m = m := by
  rw [issueStage, List.getElem?_eq_none h]

/-- Settles O40: with nothing in flight and nothing to fetch every stage leaves the state as it is. -/
theorem idleStepOnlyCountsACycle : Obligations.IdleStepOnlyCountsACycle := by
  intro s hquiet hend
  have hlive : (runCycle s).live = { s.live with cycle := s.live.cycle + 1 } := by
    rw [runCycle_live, stagesBeforeIssue_of_quiescent _ hquiet, issueStage_past_end _ hend]
    rfl
  rw [exec_step, ← hlive]
  rfl

/-! ### Several steps -/

theorem runSteps_frame (n : Nat) (s : State) :
    runSteps n s = { s with live := (runSteps n s).live, hist := (runSteps n s).hist } := by
  induction n generalizing s with
  | zero => rfl
  | succ n ih => exact ih (runCycle s)

theorem runSteps_live_succ (n : Nat) (s : State) :
    (runSteps (n + 1) s).live = nextLive s.cfg s.prog (runSteps n s).live := by
  rw [runSteps_succ, runCycle_live_eq, runSteps_cfg, runSteps_prog]

/-- The history of a run is the state before each of its cycles, pushed in turn. -/
theorem runSteps_hist {s t : State} (hcfg : t.cfg = s.cfg) (hhist : t.hist = pushHistory s.cfg s.live s.hist)
    (n : Nat) :
    (runSteps n t).hist = historyThrough s t n := by
  induction n with
  | zero => exact hhist
  | succ n ih => rw [runSteps_succ, runCycle_hist, runSteps_cfg, hcfg, ih, historyThrough_succ]

/-! ### One record alone -/

/-- `m` when record `i`, issued alone into station `r`, has counted down `k` cycles. -/
def runningAlone (m : Snapshot) (i : Record) (r : RsIx) (k : Nat) : Snapshot :=
  { m with
    cycle := m.cycle + 1 + k
    pc := m.pc + 1
    tail := m.head + 1
    rs := setEntry (filled 5 emptyRs) r
      ⟨true, i.op, .val (entry m.rf i.rs1), .val (entry m.rf i.rs2), latency i.op - k, m.head, m.pc⟩
    rob := setEntry (filled 8 emptyRob) m.head (issuedRob i)
    rst := if i.op.writesRename then setEntry (filled 32 none) i.rd (some m.head) else filled 32 none
    log := m.log ++ [.issue m.pc i r m.head] }

/-- `m` when record `i`, issued alone into station `r`, has written back this result. -/
def finishedAlone (m : Snapshot) (i : Record) (r : RsIx) (res : Result) : Snapshot :=
  { m with
    cycle := m.cycle + 1 + latency i.op + 1
    pc := m.pc + 1
    tail := m.head + 1
    rs := filled 5 emptyRs
    rob := setEntry (filled 8 emptyRob) m.head ((issuedRob i).receive res)
    rst := if i.op.writesRename then setEntry (filled 32 none) i.rd (some m.head) else filled 32 none
    log := m.log ++ [.issue m.pc i r m.head] }

theorem commitStage_runningAlone (c : Config) (m : Snapshot) (i : Record) (r : RsIx) (k : Nat) :
    commitStage c (runningAlone m i r k) = runningAlone m i r k := by
  have hhead : entry (runningAlone m i r k).rob (runningAlone m i r k).head = issuedRob i := entry_setEntry_same _ _ _
  exact commitStage_idle c (.inr (by rw [hhead]; exact RobState.noConfusion))

/-- Of the stations only the one that holds the record can be eligible. -/
theorem eligible_runningAlone (m : Snapshot) (i : Record) (r : RsIx) (k : Nat) (p : RsIx) :
    (entry (runningAlone m i r k).rs p).eligible = (decide (p = r) && latency i.op - k == 0) := by
  rw [runningAlone, entry_setEntry]
  split
  next h => simp [h, RsEntry.eligible, RsEntry.resolved, Operand.resolved]
  next h => simp [h, RsEntry.eligible, emptyRs]

section
variable (c : Config) {prog : List Record} (m : Snapshot) (i : Record) (r : RsIx)

/-- The cycle that issues the record. -/
theorem offer_of_quiescent (hquiet : Quiescent m) (hstation : freeStation (filled 5 emptyRs) (opClass i.op) = some r) :
    endCycle (offer c (stagesBeforeIssue c m) i) = runningAlone m i r 0 := by
  obtain ⟨hrs, hrob, hrst, hht⟩ := hquiet
  have hread : ∀ d, readOperand c m d = .val (entry m.rf d) := fun d =>
    readOperand_of_free c (by rw [hrst, entry_filled])
  rw [stagesBeforeIssue_of_quiescent c ⟨hrs, hrob, hrst, hht⟩,
    offer_of_free c (hrs ▸ hstation) (by rw [hrob, entry_filled]; rfl), endCycle, dispatch, issuedRs, hread, hread,
    hrs, hrob,
    hrst, ← hht]
  rfl

/-- A cycle of its countdown. -/
theorem nextLive_runningAlone {k : Nat} (hk : k < latency i.op) (hend : prog.length ≤ m.pc + 1) :
    nextLive c prog (runningAlone m i r k) = runningAlone m i r (k + 1) := by
  have hwaits : ∀ p, (entry (runningAlone m i r k).rs p).eligible = false := fun p => by
    rw [eligible_runningAlone, Bool.and_eq_false_iff, beq_eq_false_iff_ne]
    exact .inr (by omega)
  rw [nextLive, stagesBeforeIssue, commitStage_runningAlone, writebackStage_of_none c hwaits, executeStage_of_rs rfl,
    RsEntry.tick_of_resolved rfl rfl, issueStage_past_end c hend, endCycle]
  rfl

theorem eligibleStations_runningAlone : eligibleStations (runningAlone m i r (latency i.op)) = [r] := by
  have hpred : (fun p => (entry (runningAlone m i r (latency i.op)).rs p).eligible) = fun p => decide (p = r) :=
    funext fun p => by rw [eligible_runningAlone, Nat.sub_self]; exact Bool.and_true _
  have hfilter : ∀ r : RsIx, ([0, 1, 2, 3, 4] : List RsIx).filter (fun p => decide (p = r)) = [r] := by decide
  rw [eligibleStations, hpred, hfilter]

theorem entry_rob_runningAlone (k : Nat) : entry (runningAlone m i r k).rob m.head = issuedRob i :=
  entry_setEntry_same _ _ _

theorem stationResult_runningAlone (k : Nat) :
    stationResult c (runningAlone m i r k) (entry (runningAlone m i r k).rs r) = resultAt c i m.pc m.rf := by
  have hstation : entry (runningAlone m i r k).rs r =
      ⟨true, i.op, .val (entry m.rf i.rs1), .val (entry m.rf i.rs2), latency i.op - k, m.head, m.pc⟩ :=
    entry_setEntry_same _ _ _
  rw [hstation, stationResult, entry_rob_runningAlone]
  rfl

/-- Its broadcast empties the one busy station. -/
theorem broadcast_runningAlone (k : Nat) :
    broadcast c (runningAlone m i r k) r =
      { runningAlone m i r k with
        rs := filled 5 emptyRs
        rob := setEntry (filled 8 emptyRob) m.head ((issuedRob i).receive (resultAt c i m.pc m.rf)) } := by
  have hrs : (broadcast c (runningAlone m i r k) r).rs = filled 5 emptyRs := table_ext fun p => by
    rw [broadcast_rs, entry_setEntry, entry_filled]
    split
    next => rfl
    next hp =>
      rw [entry_tabulate, runningAlone, entry_setEntry_ne _ _ hp, entry_filled]
      rfl
  have hdest : (entry (runningAlone m i r k).rs r).dest = m.head := by rw [runningAlone, entry_setEntry_same]
  have hrob : (broadcast c (runningAlone m i r k) r).rob =
      setEntry (filled 8 emptyRob) m.head ((issuedRob i).receive (resultAt c i m.pc m.rf)) := by
    rw [broadcast_rob, stationResult_runningAlone, hdest, entry_rob_runningAlone, runningAlone, setEntry_setEntry]
  rw [← hrs, ← hrob]
  rfl

/-- The cycle that writes its result back. -/
theorem nextLive_runningAlone_last (hend : prog.length ≤ m.pc + 1) :
    nextLive c prog (runningAlone m i r (latency i.op)) = finishedAlone m i r (resultAt c i m.pc m.rf) := by
  have htick : emptyRs.tick = emptyRs := rfl
  rw [nextLive, stagesBeforeIssue, commitStage_runningAlone, writebackStage, eligibleStations_runningAlone,
    List.foldl_cons,
    List.foldl_nil, broadcast_runningAlone, executeStage_of_rs (r := 0) (e := emptyRs) (setEntry_filled _ _).symm,
    issueStage_past_end c hend, htick, setEntry_filled]
  rfl

end

/-- Until it has written back, the record alone counts down one step a cycle. -/
theorem runSteps_finishedAlone {s : State} {i : Record} {r : RsIx} (hquiet : Quiescent s.live)
    (hend : s.prog.length ≤ s.live.pc + 1) (hstation : freeStation (filled 5 emptyRs) (opClass i.op) = some r) :
    (runSteps (latency i.op + 1) (runCycleIssuing i s)).live =
      finishedAlone s.live i r (resultAt s.cfg i s.live.pc s.live.rf) := by
  have hcount : ∀ k, k ≤ latency i.op → (runSteps k (runCycleIssuing i s)).live = runningAlone s.live i r k := by
    intro k
    induction k with
    | zero => exact fun _ => offer_of_quiescent s.cfg s.live i r hquiet hstation
    | succ k ih =>
      intro hk
      rw [runSteps_live_succ, ih (Nat.le_of_succ_le hk)]
      exact nextLive_runningAlone s.cfg s.live i r hk hend
  rw [runSteps_live_succ, hcount _ le_rfl]
  exact nextLive_runningAlone_last s.cfg s.live i r hend

/-- The whole state after the commit of a record alone, from its live part. -/
theorem runSteps_alone {s : State} {i : Record} {n : Nat} {m : Snapshot}
    (hlive : (runSteps n (runCycleIssuing i s)).live = m) :
    runSteps n (runCycleIssuing i s) = { s with hist := historyThrough s (runCycleIssuing i s) n, live := m } := by
  rw [runSteps_frame, hlive, runSteps_hist (s := s) (t := runCycleIssuing i s) rfl rfl]
  rfl

/-! ### The commit -/

section
variable (c : Config) {m : Snapshot} (hquiet : Quiescent m) (i : Record) (r : RsIx)

theorem entry_rob_finishedAlone (m : Snapshot) (res : Result) :
    entry (finishedAlone m i r res).rob (finishedAlone m i r res).head = (issuedRob i).receive res :=
  entry_setEntry_same _ _ _

theorem headReady_finishedAlone (m : Snapshot) (res : Result) : HeadReady (finishedAlone m i r res) i := by
  constructor <;> rw [entry_rob_finishedAlone] <;> rfl

include hquiet in
/-- The retirement of the record alone leaves the buffers empty. -/
theorem retireHead_finishedAlone (res : Result) (rf : Vector Val 32) :
    retireHead { finishedAlone m i r res with rf := rf, rst := filled 32 none } ((issuedRob i).receive res) i =
      committedAlone m i r (latency i.op + 2) res.value rf := by
  obtain ⟨cycle, pc, rs, rob, head, tail, rf', rst, committed, bubbles, flushes, log⟩ := m
  obtain ⟨rfl, rfl, rfl, hht⟩ := hquiet
  obtain rfl : head = tail := hht
  simp only [retireHead, finishedAlone, committedAlone, setEntry_setEntry, setEntry_filled, List.append_assoc,
    List.singleton_append, Snapshot.mk.injEq, true_and]
  exact ⟨by omega, rfl⟩

/-- The commit of a record whose rename claim is the only one leaves none. -/
theorem commitWrite_rst_of_only_claim {n : Snapshot} {e : RobEntry} (hdest : e.dest = some i.rd)
    (hclaim : n.rst = if i.op.writesRename then setEntry (filled 32 none) i.rd (some n.head) else filled 32 none) :
    (commitWrite c n e i).rst = filled 32 none := by
  rw [commitWrite_eq c n e i hdest]
  show (if _ ∧ entry n.rst i.rd = some n.head then setEntry n.rst i.rd none else n.rst) = _
  cases hw : i.op.writesRename with
  | true =>
    rw [hw, if_pos rfl] at hclaim
    rw [hclaim, if_pos ⟨.inl (ne_sw_of_writesRename hw), entry_setEntry_same _ _ _⟩, setEntry_setEntry, setEntry_filled]
  | false =>
    rw [hw, if_neg Bool.false_ne_true] at hclaim
    rw [hclaim, entry_filled, if_neg (by simp)]

/-- The register write of the record alone is the sequential one, and its rename claim is gone. -/
theorem commitWrite_finishedAlone (m : Snapshot) (hop : i.op.isBranch = false) :
    commitWrite c (finishedAlone m i r (resultAt c i m.pc m.rf)) ((issuedRob i).receive (resultAt c i m.pc m.rf)) i =
      { finishedAlone m i r (resultAt c i m.pc m.rf) with rf := regsAfter c i m.pc m.rf, rst := filled 32 none } := by
  have hdest : ((issuedRob i).receive (resultAt c i m.pc m.rf)).dest = some i.rd := by
    simp [RobEntry.receive, issuedRob, hop]
  have hvalue : wrap c.xlen ((issuedRob i).receive (resultAt c i m.pc m.rf)).value = (resultAt c i m.pc m.rf).value :=
    wrap_resultAt_value c hop m.pc m.rf
  rw [commitWrite_frame, commitWrite_rf_eq c _ hop hdest, hvalue, commitWrite_rst_of_only_claim c i hdest rfl]
  rfl

include hquiet in
theorem commitStage_finishedAlone_of_not_branch (hop : i.op.isBranch = false) :
    commitStage c (finishedAlone m i r (resultAt c i m.pc m.rf)) =
      committedAlone m i r (latency i.op + 2) (resultAt c i m.pc m.rf).value (regsAfter c i m.pc m.rf) := by
  obtain ⟨hb, hr, hi⟩ := headReady_finishedAlone i r m (resultAt c i m.pc m.rf)
  rw [commitStage_of_not_branch c hb hr hi hop, entry_rob_finishedAlone, commitWrite_finishedAlone c i r m hop,
    retireHead_finishedAlone hquiet]

include hquiet in
theorem commitStage_finishedAlone_of_untaken (hop : i.op.isBranch = true) {res : Result}
    (hres : res.shouldBranch = false) :
    commitStage c (finishedAlone m i r res) = committedAlone m i r (latency i.op + 2) res.value m.rf := by
  obtain ⟨hb, hr, hi⟩ := headReady_finishedAlone i r m res
  have hkeep : finishedAlone m i r res = { finishedAlone m i r res with rf := m.rf, rst := filled 32 none } := by
    simp [finishedAlone, writesRename_of_isBranch hop]
  rw [commitStage_of_untaken c hb hr hi hop (by rw [entry_rob_finishedAlone]; exact hres), entry_rob_finishedAlone,
    ← retireHead_finishedAlone hquiet, ← hkeep]

include hquiet in
theorem commitStage_finishedAlone_of_taken (hlat : latency i.op = 1) (hop : i.op.isBranch = true) {res : Result}
    (hres : res.shouldBranch = true) : commitStage c (finishedAlone m i 0 res) = flushedAlone m i res.targetPc := by
  obtain ⟨hb, hr, hi⟩ := headReady_finishedAlone i 0 m res
  rw [commitStage_of_taken c hb hr hi hop (by rw [entry_rob_finishedAlone]; exact hres), entry_rob_finishedAlone]
  obtain ⟨cycle, pc, rs, rob, head, tail, rf', rst, committed, bubbles, flushes, log⟩ := m
  obtain ⟨rfl, rfl, rfl, hht⟩ := hquiet
  obtain rfl : head = tail := hht
  simp only [commitMispredicted, flush, finishedAlone, flushedAlone, hlat, List.append_assoc, List.singleton_append,
    Snapshot.mk.injEq, and_true, true_and]
  rfl

include hquiet in
/-- The cycle of a commit that leaves nothing to fetch. -/
theorem nextLive_of_committedAlone {prog : List Record} {n : Snapshot} {cycles : Nat} {v : Val} {rf : Vector Val 32}
    (hn : commitStage c n = committedAlone m i r cycles v rf) (hend : prog.length ≤ m.pc + 1) :
    nextLive c prog n = committedAlone m i r (cycles + 1) v rf := by
  have hrs : (committedAlone m i r cycles v rf).rs = filled 5 emptyRs := hquiet.1
  rw [nextLive, stagesBeforeIssue, hn, execute_writeback_of_idle c hrs, issueStage_past_end c hend]
  rfl

end

section
variable {s : State} {i : Record} {r : RsIx} (hquiet : Quiescent s.live) (hend : s.prog.length ≤ s.live.pc + 1)
include hquiet hend

/-- A non-branch alone commits its result `latency + 3` cycles after the one before its Issue (40_engine_cycle R142). -/
theorem exec_alone_of_not_branch (hstation : freeStation (filled 5 emptyRs) (opClass i.op) = some r)
    (hop : i.op.isBranch = false) :
    Completes (exec (.ofRecord i) s) fun t => runSteps (latency i.op + 2) t =
      { s with
        hist := historyThrough s t (latency i.op + 2)
        live := committedAlone s.live i r (latency i.op + 3) (resultAt s.cfg i s.live.pc s.live.rf).value
          (regsAfter s.cfg i s.live.pc s.live.rf) } := by
  refine ⟨_, exec_ofRecord i s, runSteps_alone ?_⟩
  rw [runSteps_live_succ, runSteps_finishedAlone hquiet hend hstation]
  exact nextLive_of_committedAlone s.cfg hquiet i r (commitStage_finishedAlone_of_not_branch s.cfg hquiet i r hop) hend

/-- A branch alone that is not taken retires in its fourth cycle; a taken one flushes there and goes on to Issue. -/
theorem exec_alone_of_branch (hop : i.op.isBranch = true) (hlat : latency i.op = 1)
    (hclass : opClass i.op = .addClass) :
    Completes (exec (.ofRecord i) s) fun t => runSteps 3 t =
      { s with
        hist := historyThrough s t 3
        live :=
          if (resultAt s.cfg i s.live.pc s.live.rf).shouldBranch = true then
            endCycle (issueStage s.cfg s.prog (flushedAlone s.live i (resultAt s.cfg i s.live.pc s.live.rf).targetPc))
          else committedAlone s.live i 0 4 (resultAt s.cfg i s.live.pc s.live.rf).value s.live.rf } := by
  refine ⟨_, exec_ofRecord i s, runSteps_alone ?_⟩
  have hfinished := runSteps_finishedAlone (i := i) (r := 0) hquiet hend (by rw [hclass]; rfl)
  rw [hlat] at hfinished
  rw [runSteps_live_succ, hfinished]
  split
  next htaken =>
    have hrs : (flushedAlone s.live i (resultAt s.cfg i s.live.pc s.live.rf).targetPc).rs = filled 5 emptyRs := hquiet.1
    rw [nextLive, stagesBeforeIssue, runCycleIssuing_cfg, runCycleIssuing_prog,
      commitStage_finishedAlone_of_taken s.cfg hquiet i hlat hop htaken, execute_writeback_of_idle _ hrs]
  next huntaken =>
    have hcommit := commitStage_finishedAlone_of_untaken s.cfg hquiet i 0 hop (Bool.eq_false_iff.mpr huntaken)
    rw [hlat] at hcommit
    exact nextLive_of_committedAlone s.cfg hquiet i 0 hcommit hend

end

/-! ### The eight operations -/

/-- Settles O13: `ADD` alone, two cycles of countdown from station 0. -/
theorem addAloneCommitsTheSum : Obligations.AddAloneCommitsTheSum := fun s rd rs1 rs2 off hquiet hend =>
  exec_alone_of_not_branch (s := s) (i := ⟨.add, rd, rs1, rs2, off⟩) hquiet hend rfl rfl

/-- Settles O14: `SUB` alone. -/
theorem subAloneCommitsTheDifference : Obligations.SubAloneCommitsTheDifference := fun s rd rs1 rs2 off hquiet hend =>
  exec_alone_of_not_branch (s := s) (i := ⟨.sub, rd, rs1, rs2, off⟩) hquiet hend rfl rfl

/-- Settles O15: `MUL` alone, four cycles of countdown from station 3. -/
theorem mulAloneCommitsTheProduct : Obligations.MulAloneCommitsTheProduct := fun s rd rs1 rs2 off hquiet hend =>
  exec_alone_of_not_branch (s := s) (i := ⟨.mul, rd, rs1, rs2, off⟩) hquiet hend rfl rfl

theorem divq_zero (round : DivRound) (a : Int) : divq round a 0 = 0 := if_pos rfl

/-- Settles O16: `DIV` alone, ten cycles of countdown; the zero divisor is a case of the quotient. -/
theorem divAloneCommitsTheQuotient : Obligations.DivAloneCommitsTheQuotient := by
  intro s rd rs1 rs2 off hquiet hend a b v
  have hv : v = wrap s.cfg.xlen (divq s.cfg.divRound a b) := by
    show wrap s.cfg.xlen (if b = 0 then 0 else divq s.cfg.divRound a b) = _
    split
    next hb => rw [hb, divq_zero]
    next => rfl
  rw [hv]
  exact exec_alone_of_not_branch (s := s) (i := ⟨.div, rd, rs1, rs2, off⟩) hquiet hend rfl rfl

/-- Settles O17: `LW` alone, three cycles of countdown. -/
theorem lwAloneCommitsTheAddress : Obligations.LwAloneCommitsTheAddress := fun s rd rs1 rs2 off hquiet hend =>
  exec_alone_of_not_branch (s := s) (i := ⟨.lw, rd, rs1, rs2, off⟩) hquiet hend rfl rfl

/-- Settles O18: `SW` alone; whether it writes its register is the parameter's. -/
theorem swAloneCommitsTheAddress : Obligations.SwAloneCommitsTheAddress := by
  intro s rd rs1 rs2 off hquiet hend v
  have hregs : regsAfter s.cfg ⟨.sw, rd, rs1, rs2, off⟩ s.live.pc s.live.rf =
      if s.cfg.storeCommitWritesRd = true then setEntry s.live.rf rd v else s.live.rf :=
    if_congr ((writesRegister_iff s.cfg (i := ⟨.sw, rd, rs1, rs2, off⟩) rfl).symm.trans (by simp)) rfl rfl
  rw [← hregs]
  exact exec_alone_of_not_branch (s := s) (i := ⟨.sw, rd, rs1, rs2, off⟩) hquiet hend rfl rfl

/-- Settles O19: `BEQ` alone, taken when the operands are equal. -/
theorem beqAloneBranchesOnEqual : Obligations.BeqAloneBranchesOnEqual := by
  intro s rd rs1 rs2 o hquiet hend hnat i
  have hresult : resultAt s.cfg i s.live.pc s.live.rf =
      ⟨0, entry s.live.rf rs1 == entry s.live.rf rs2, ((s.live.pc : Int) + 1 + o).toNat⟩ := by
    rw [← branchTarget_of_natural hnat]
    rfl
  have h := exec_alone_of_branch (s := s) (i := i) hquiet hend rfl rfl rfl
  simp only [hresult, beq_iff_eq] at h
  exact h

/-- Settles O20: `BNE` alone, taken when the operands differ. -/
theorem bneAloneBranchesOnUnequal : Obligations.BneAloneBranchesOnUnequal := by
  intro s rd rs1 rs2 o hquiet hend hnat i
  have hresult : resultAt s.cfg i s.live.pc s.live.rf =
      ⟨0, entry s.live.rf rs1 != entry s.live.rf rs2, ((s.live.pc : Int) + 1 + o).toNat⟩ := by
    rw [← branchTarget_of_natural hnat]
    rfl
  have h := exec_alone_of_branch (s := s) (i := i) hquiet hend rfl rfl rfl
  simp only [hresult, bne_iff_ne, ite_not] at h
  exact h

end Sys2Proof.Machine
end

section
/-! PROOF. Writeback once more (40_engine_cycle R132, R143): the order of the broadcasts, and the countdown of a station
that a broadcast reaches; and what each operation computes (R128), with the quotient of 41_arith R176. -/

namespace Sys2Proof.Machine

/-! ### The order of the broadcasts -/

theorem Operand.forward_comm {q q' : RobIx} (h : q ≠ q') (v v' : Val) (o : Operand) :
    (o.forward q v).forward q' v' = (o.forward q' v').forward q v := by
  by_cases hq : o = .tag q
  · have hne : o ≠ .tag q' := fun hq' => h (Operand.tag.inj (hq.symm.trans hq'))
    rw [Operand.forward_of_ne v' hne, hq, Operand.forward_tag_same, Operand.forward_val]
  · by_cases hq' : o = .tag q'
    · rw [Operand.forward_of_ne v hq, hq', Operand.forward_tag_same, Operand.forward_val]
    · rw [Operand.forward_of_ne v hq, Operand.forward_of_ne v' hq', Operand.forward_of_ne v hq]

theorem RsEntry.forward_comm {q q' : RobIx} (h : q ≠ q') (v v' : Val) (e : RsEntry) :
    (e.forward q v).forward q' v' = (e.forward q' v').forward q v := by
  cases hbusy : e.busy with
  | false => simp only [RsEntry.forward_of_not_busy hbusy]
  | true =>
    rw [RsEntry.forward_of_busy hbusy, RsEntry.forward_of_busy hbusy, RsEntry.forward_of_busy (by exact hbusy),
      RsEntry.forward_of_busy (by exact hbusy)]
    simp only [Operand.forward_comm h]

/-- In a list of broadcasts to different slots, two that go to the same slot are the same one. -/
theorem Broadcasts.eq_or_ne {bs : Broadcasts} (hnd : (bs.map Prod.fst).Nodup) {x y : RobIx × Result} (hx : x ∈ bs)
    (hy : y ∈ bs) : x = y ∨ x.1 ≠ y.1 := by
  by_cases h : x.1 = y.1
  · exact .inl (List.inj_on_of_nodup_map hnd hx hy h)
  · exact .inr h

theorem RsEntry.forwardAll_perm {bs bs' : Broadcasts} (hperm : bs.Perm bs') (hnd : (bs.map Prod.fst).Nodup)
    (e : RsEntry) :
    e.forwardAll bs = e.forwardAll bs' := by
  refine hperm.foldl_eq' (fun x hx y hy z => ?_) e
  rcases Broadcasts.eq_or_ne hnd hx hy with rfl | hne
  · rfl
  · exact RsEntry.forward_comm hne _ _ z

theorem receiveAll_perm {bs bs' : Broadcasts} (hperm : bs.Perm bs') (hnd : (bs.map Prod.fst).Nodup)
    (rob : Vector RobEntry 8) : receiveAll bs rob = receiveAll bs' rob := by
  refine hperm.foldl_eq' (fun x hx y hy z => ?_) rob
  rcases Broadcasts.eq_or_ne hnd hx hy with rfl | hne
  · rfl
  · rw [entry_setEntry_ne _ _ hne.symm, entry_setEntry_ne _ _ hne, setEntry_comm _ _ _ hne]

/-- Settles O27: in closed form the stage depends on the order only through a list of broadcasts to different slots, and
two of these commute. -/
theorem writebackOrderIsIrrelevant : Obligations.WritebackOrderIsIrrelevant := by
  intro c m l hdist hperm
  have hel : ∀ p ∈ l, (entry m.rs p).eligible = true := fun p hp => (mem_eligibleStations m p).mp (hperm.mem_iff.mp hp)
  have hbs : (broadcasts c m l).Perm (writebacks c m) := hperm.map _
  have hnd : ((broadcasts c m l).map Prod.fst).Nodup :=
    (hbs.map Prod.fst).nodup_iff.mpr (nodup_writebacks c hdist)
  rw [foldl_broadcast_eq c (hperm.nodup_iff.mpr (nodup_eligibleStations m)) hel, writebackStage_eq]
  simp only [hperm.mem_iff, mem_eligibleStations, RsEntry.forwardAll_perm hbs hnd, receiveAll_perm hbs hnd]

/-! ### Forwarding and the countdown in one cycle -/

theorem RsEntry.not_eligible_of_tag {e : RsEntry} {q : RobIx} (h : e.j = .tag q ∨ e.k = .tag q) :
    e.eligible = false := by
  rw [Bool.eq_false_iff, ne_eq, RsEntry.eligible_iff]
  rintro ⟨-, -, ⟨a, ha⟩, b, hb⟩
  rcases h with h | h
  · cases ha.symm.trans h
  · cases hb.symm.trans h

/-- A waiting station whose operands the broadcasts resolve leaves Execute with them and with a countdown one lower. -/
theorem entry_execute_writeback_of_forwarded (c : Config) {m : Snapshot} {r : RsIx} (hbusy : (entry m.rs r).busy = true)
    (hwaits : (entry m.rs r).eligible = false) {a b : Val} (hj : (entry m.rs r).j.forwardAll (writebacks c m) = .val a)
    (hk : (entry m.rs r).k.forwardAll (writebacks c m) = .val b) :
    entry (executeStage (writebackStage c m)).rs r =
      { entry m.rs r with j := .val a, k := .val b, lat := (entry m.rs r).lat - 1 } := by
  rw [entry_executeStage, entry_writebackStage_of_not_eligible c hwaits, RsEntry.forwardAll_of_busy hbusy, hj, hk,
    RsEntry.tick_of_resolved (by exact hbusy) rfl]

theorem Operand.forwardAll_val (bs : Broadcasts) (a : Val) : (Operand.val a).forwardAll bs = .val a :=
  Operand.forwardAll_of_forall_ne (by simp)

/-- Settles O28: a tag of a station that writes back is forwarded to, a value stays, and then the station counts
down. -/
theorem forwardedOperandCountsDownInTheSameCycle : Obligations.ForwardedOperandCountsDownInTheSameCycle := by
  intro c m p r hdist hp hbusy v n
  have htag : ∀ {p o}, (entry m.rs p).eligible = true → o = Operand.tag (entry m.rs p).dest →
      o.forwardAll (writebacks c m) = .val (stationResult c m (entry m.rs p)).value :=
    fun hp ho => Operand.forwardAll_writebacks c hdist hp ho
  have hval : ∀ {o a}, o = Operand.val a → o.forwardAll (writebacks c m) = .val a :=
    fun ho => by rw [ho, Operand.forwardAll_val]
  refine ⟨fun b hj hk => ?_, fun a hj hk => ?_, fun hj hk => ?_, fun p' hp' hj hk => ?_⟩
  · exact (entry_execute_writeback_of_forwarded c hbusy (RsEntry.not_eligible_of_tag (.inl hj)) (htag hp hj)
      (hval hk)).trans (by rw [← hk])
  · exact (entry_execute_writeback_of_forwarded c hbusy (RsEntry.not_eligible_of_tag (.inr hk)) (hval hj)
      (htag hp hk)).trans (by rw [← hj])
  · exact entry_execute_writeback_of_forwarded c hbusy (RsEntry.not_eligible_of_tag (.inl hj)) (htag hp hj) (htag hp hk)
  · exact entry_execute_writeback_of_forwarded c hbusy (RsEntry.not_eligible_of_tag (.inl hj)) (htag hp hj)
      (htag hp' hk)

/-! ### Results -/

/-- Settles O29: the six values by definition; a branch's outcome as a decision, its target where that is natural. -/
theorem stationResults : Obligations.StationResults := by
  intro c a b pc off
  refine ⟨rfl, rfl, rfl, rfl, rfl, rfl, fun o hnat => ?_⟩
  rw [← branchTarget_of_natural hnat]
  refine ⟨congrArg (Result.mk 0 · _) (beq_eq_decide a b), congrArg (Result.mk 0 · _) ?_⟩
  rw [bneTaken, bne, beq_eq_decide, decide_not]

/-! ### The quotient -/

theorem divq_floor {a b : Int} (hb : b ≠ 0) : divq .floor a b = a.fdiv b := if_neg hb

theorem divq_trunc {a b : Int} (hb : b ≠ 0) : divq .trunc a b = a.tdiv b := if_neg hb

theorem floor_div_of_pos {a b : Int} (hb : 0 < b) : ⌊(a / b : ℚ)⌋ = a.fdiv b := by
  obtain ⟨n, rfl⟩ := Int.eq_ofNat_of_zero_le hb.le
  rw [Int.cast_natCast, Rat.floor_intCast_div_natCast, Int.fdiv_eq_ediv_of_nonneg _ hb.le]

/-- Division rounded down is the floor of the rational quotient, for a divisor of either sign. -/
theorem floor_div_eq_fdiv {a b : Int} (hb : b ≠ 0) : ⌊(a / b : ℚ)⌋ = a.fdiv b := by
  rcases lt_or_gt_of_ne hb with hneg | hpos
  · rw [← Int.neg_fdiv_neg, ← floor_div_of_pos (neg_pos.mpr hneg), Int.cast_neg, Int.cast_neg, neg_div_neg_eq]
  · exact floor_div_of_pos hpos

/-- On operands of the same sign the two roundings agree. -/
theorem tdiv_eq_fdiv_of_same_sign {a b : Int} (hb : b ≠ 0) (hsign : 0 ≤ a * b) : a.tdiv b = a.fdiv b := by
  rw [Int.tdiv_eq_fdiv]
  rcases lt_or_gt_of_ne hb with hneg | hpos
  · have ha : a ≤ 0 := nonpos_of_mul_nonneg_left hsign hneg
    have hzero : 0 ≤ a → b ∣ a := fun h => by rw [le_antisymm ha h]; exact dvd_zero b
    by_cases hdvd : b ∣ a
    · simp [hdvd]
    · simp [hdvd, mt hzero hdvd, hneg.not_ge, Int.sign_eq_neg_one_of_neg hneg]
  · simp [nonneg_of_mul_nonneg_left hsign hpos, hpos.le]

/-- On an inexact quotient of operands of opposite sign truncation is one above the floor. -/
theorem tdiv_eq_fdiv_add_one {a b : Int} (hdvd : ¬b ∣ a) (hsign : a * b < 0) : a.tdiv b = a.fdiv b + 1 := by
  rw [Int.tdiv_eq_fdiv, if_neg hdvd]
  rcases mul_neg_iff.mp hsign with ⟨ha, hb⟩ | ⟨ha, hb⟩
  · rw [if_pos ha.le, if_neg hb.not_ge]
  · rw [if_neg ha.not_ge, if_pos hb.le, Int.sign_eq_one_of_pos hb]

theorem divq_mul_cancel (round : DivRound) {a b : Int} (hb : b ≠ 0) (hdvd : b ∣ a) : divq round a b * b = a := by
  cases round with
  | floor => rw [divq_floor hb, Int.fdiv_mul_cancel hdvd]
  | trunc => rw [divq_trunc hb, Int.tdiv_mul_cancel hdvd]

theorem divq_of_same_sign (round : DivRound) {a b : Int} (hb : b ≠ 0) (hsign : 0 ≤ a * b) :
    divq round a b = a.fdiv b := by
  cases round with
  | floor => rw [divq_floor hb]
  | trunc => rw [divq_trunc hb, tdiv_eq_fdiv_of_same_sign hb hsign]

theorem natAbs_divq_le (round : DivRound) (a b : Int) : (divq round a b).natAbs ≤ a.natAbs := by
  by_cases hb : b = 0
  · simp [hb, divq_zero]
  · cases round with
    | floor => rw [divq_floor hb]; exact Int.natAbs_fdiv_le_natAbs a b
    | trunc => rw [divq_trunc hb]; exact Int.natAbs_tdiv_le_natAbs a b

theorem divq_neg_one (round : DivRound) (a : Int) : divq round a (-1) = -a := by
  have h := divq_mul_cancel round (a := a) (b := -1) (by decide) (Int.neg_dvd.mpr (one_dvd a))
  omega

/-- A negative dividend divided by a positive divisor gives no positive quotient. -/
theorem divq_nonpos (round : DivRound) {a b : Int} (ha : a < 0) (hb : 0 < b) : divq round a b ≤ 0 := by
  have hfloor : a.fdiv b < 0 := Int.fdiv_neg_of_neg_of_pos ha hb
  cases round with
  | floor => rw [divq_floor hb.ne']; exact hfloor.le
  | trunc =>
    rw [divq_trunc hb.ne']
    by_cases hdvd : b ∣ a
    · rw [Int.tdiv_eq_fdiv, if_pos hdvd]
      omega
    · rw [tdiv_eq_fdiv_add_one hdvd (mul_neg_of_neg_of_pos ha hb)]
      omega

/-- A quotient whose magnitude is the dividend's, of opposite sign to it, has the divisor -1. -/
theorem eq_neg_one_of_divq_eq_neg (round : DivRound) {a b : Int} (ha : a < 0) (h : divq round a b = -a) : b = -1 := by
  rcases lt_trichotomy b 0 with hneg | rfl | hpos
  · rw [divq_of_same_sign round hneg.ne (mul_nonneg_of_nonpos_of_nonpos ha.le hneg.le), ← Int.neg_fdiv_neg,
      Int.fdiv_eq_ediv_of_nonneg _ (neg_pos.mpr hneg).le] at h
    by_contra hne
    have hself := Int.ediv_mul_le (-a) (neg_pos.mpr hneg).ne'
    rw [h] at hself
    nlinarith [show 2 ≤ -b by omega]
  · rw [divq_zero] at h
    omega
  · have := divq_nonpos round ha hpos
    omega

section Overflow
variable (round : DivRound) {n : Nat} {a b : Int}

/-- The one quotient of two `Val`s that is none (41_arith R176, derived there from 00_scope R12). -/
theorem inVal_divq_eq_false_iff (ha : inVal (.bits n) a = true) :
    inVal (.bits n) (divq round a b) = false ↔ a = -(2 ^ (n - 1)) ∧ b = -1 := by
  obtain ⟨hlow, hhigh⟩ := (inVal_bits_iff n a).mp ha
  have hpos : (0 : Int) < 2 ^ (n - 1) := by positivity
  rw [Bool.eq_false_iff, ne_eq, inVal_bits_iff]
  constructor
  · intro hout
    have hle := natAbs_divq_le round a b
    have hmin : a = -(2 ^ (n - 1)) := by omega
    exact ⟨hmin, eq_neg_one_of_divq_eq_neg round (a := a) (by omega) (by omega)⟩
  · rintro ⟨rfl, rfl⟩
    rw [divq_neg_one]
    omega

theorem wrap_overflowing_divq (hn : 0 < n) :
    wrap (.bits n) (divq round (-(2 ^ (n - 1))) (-1)) = -(2 ^ (n - 1)) := by
  have hdouble : (2 : Int) ^ (n - 1) + 2 ^ (n - 1) = 2 ^ n := by
    rw [← two_mul]
    exact mul_pow_sub_one hn.ne' 2
  rw [divq_neg_one, neg_neg, wrap_bits, hdouble, Int.emod_self, zero_sub]

end Overflow

/-- Settles O32: the roundings are `fdiv` and `tdiv`, which differ by one on inexact quotients of operands of opposite
sign only; a quotient is no larger than its dividend, so only the most negative one by -1 can overflow. -/
theorem quotientRounding : Obligations.QuotientRounding := by
  refine ⟨divq_zero, fun round a b => divq_mul_cancel round, fun round a b hb hsign => ?_, fun a b hb => ?_,
    fun a b hb hdvd hsign => ?_,
    fun round n a b hn ha _ => ⟨inVal_divq_eq_false_iff round ha, wrap_overflowing_divq round hn⟩⟩
  · rw [floor_div_eq_fdiv hb, divq_of_same_sign round hb hsign]
  · rw [floor_div_eq_fdiv hb, divq_floor hb]
  · rw [floor_div_eq_fdiv hb, divq_trunc hb, tdiv_eq_fdiv_add_one hdvd hsign]

end Sys2Proof.Machine
end

section
/-! PROOF. The history over several steps and over every clock edge (44_history_undo R224 to R227), what no clock edge
changes (20_memory R81), and the values in range (00_scope R12). -/

namespace Sys2Proof.Machine

/-! ### Undo -/

theorem pushHistory_of_unbounded {c : Config} (h : c.histDepth = none) (m : Snapshot) (hist : List Snapshot) :
    pushHistory c m hist = m :: hist := by
  rw [pushHistory, h]

theorem pushHistory_of_bounded {c : Config} {d : Nat} (h : c.histDepth = some d) (m : Snapshot) (hist : List Snapshot) :
    pushHistory c m hist = (m :: hist).take d := by
  rw [pushHistory, h]

theorem popHistory_runCycle_of_unbounded {s : State} (h : s.cfg.histDepth = none) : popHistory (runCycle s) = s := by
  have htop : (runCycle s).hist = s.live :: s.hist := by rw [runCycle_hist, pushHistory_of_unbounded h]
  rw [popHistory_of_hist_cons htop]
  rfl

/-- With a finite depth the undo of a step loses the Snapshots beyond the depth, and nothing else. -/
theorem popHistory_runCycle_of_bounded {s : State} {d : Nat} (h : s.cfg.histDepth = some (d + 1)) :
    popHistory (runCycle s) = { s with hist := s.hist.take d } := by
  have htop : (runCycle s).hist = s.live :: s.hist.take d := by
    rw [runCycle_hist, pushHistory_of_bounded h, List.take_succ_cons]
  rw [popHistory_of_hist_cons htop]
  rfl

/-- `k` undos look at the `k` newest Snapshots only. -/
theorem runUndo_of_take_eq {k : Nat} {s : State} {hist : List Snapshot} (h : hist.take k = s.hist.take k) :
    runUndo k { s with hist := hist } = { runUndo k s with hist := (runUndo k { s with hist := hist }).hist } := by
  induction k generalizing s hist with
  | zero => rfl
  | succ k ih =>
    cases hist with
    | nil =>
      have hs : s.hist = [] := by simpa using h.symm
      rw [← hs]
    | cons m rest =>
      cases hs : s.hist with
      | nil => simp [hs] at h
      | cons m' rest' =>
        rw [hs, List.take_succ_cons, List.take_succ_cons, List.cons.injEq] at h
        obtain ⟨rfl, htake⟩ := h
        have hpop : popHistory s = { s with live := m, hist := rest' } := popHistory_of_hist_cons hs
        rw [runUndo, runUndo, hpop]
        exact ih (s := { s with live := m, hist := rest' }) htake

/-- Settles O34: the last step is undone first. Unbounded, an undo gives back the whole state; bounded, it gives back
all but Snapshots too old for the undos that follow. -/
theorem undoReturnsToTheStart : Obligations.UndoReturnsToTheStart := by
  intro k s
  refine ⟨fun hdepth => ?_, fun d hdepth hk => ?_⟩
  · induction k with
    | zero => rfl
    | succ k ih =>
      have hcfg : (runSteps k s).cfg.histDepth = none := by rw [runSteps_cfg, hdepth]
      rw [runSteps_succ, runUndo, popHistory_runCycle_of_unbounded hcfg, ih]
  · induction k with
    | zero => rfl
    | succ k ih =>
      obtain ⟨d, rfl⟩ := Nat.exists_eq_succ_of_ne_zero (Nat.ne_zero_of_lt hk)
      have hcfg : (runSteps k s).cfg.histDepth = some (d + 1) := by rw [runSteps_cfg, hdepth]
      have htake : ((runSteps k s).hist.take d).take k = (runSteps k s).hist.take k := by
        rw [List.take_take, Nat.min_eq_left (Nat.le_of_succ_le_succ hk)]
      rw [runSteps_succ, runUndo, popHistory_runCycle_of_bounded hcfg, runUndo_of_take_eq htake,
        ih (Nat.le_of_succ_le hk)]

/-! ### The clock edge on the parameters, the input, the stream and the history -/

theorem Edge.cfg {s t : State} (he : Edge s t) : t.cfg = s.cfg := by cases he <;> rfl

theorem Edge.inbox {s t : State} (he : Edge s t) : t.inbox = s.inbox.tail := by cases he <;> rfl

/-- Settles O54: of the edges only `rst` and an accepted `LOAD_PROGRAM` replace the stream, and both start afresh. -/
theorem streamChangesOnlyWhenReplacedWhole : Obligations.StreamChangesOnlyWhenReplacedWhole := by
  intro s t hstep
  have he := edge_of_step hstep
  refine ⟨he.cfg, he.inbox, fun hprog => ?_⟩
  cases he with
  | idle => exact absurd rfl hprog
  | cycle => exact absurd rfl hprog
  | undo => exact absurd rfl hprog
  | reset => exact absurd rfl hprog
  | construct hrst => exact ⟨.inl hrst, quiescent_fresh _, rfl, rfl⟩
  | load hcmd => exact ⟨.inr hcmd, quiescent_fresh _, rfl, rfl⟩

theorem historyInv_of_unbounded {s : State} (h : s.cfg.histDepth = none) :
    HistoryInv s = true ↔ histChain s.live.cycle s.hist = true := by
  rw [HistoryInv, h]

theorem historyInv_of_bounded {s : State} {d : Nat} (h : s.cfg.histDepth = some d) :
    HistoryInv s = true ↔ s.hist.length ≤ d := by
  rw [HistoryInv, h, decide_eq_true_iff]

theorem histChain_cons {cycle : Nat} {m : Snapshot} {rest : List Snapshot} :
    histChain cycle (m :: rest) = true ↔ cycle = m.cycle + 1 ∧ histChain m.cycle rest = true := by
  rw [histChain, Bool.and_eq_true, beq_iff_eq]

theorem length_of_histChain {cycle : Nat} {hist : List Snapshot} (h : histChain cycle hist = true) :
    hist.length = cycle := by
  induction hist generalizing cycle with
  | nil =>
    rw [histChain, beq_iff_eq] at h
    exact h.symm
  | cons m rest ih =>
    obtain ⟨rfl, hrest⟩ := histChain_cons.mp h
    rw [List.length_cons, ih hrest]

/-- The last action of a step counts the cycle; no stage before it does. -/
theorem runCycle_live_cycle (s : State) : (runCycle s).live.cycle = s.live.cycle + 1 := by
  simp [stagesBeforeIssue]

theorem Edge.historyInv {s t : State} (he : Edge s t) (h : HistoryInv s = true) : HistoryInv t = true := by
  have hcfg := he.cfg
  cases hdepth : s.cfg.histDepth with
  | none =>
    rw [historyInv_of_unbounded hdepth] at h
    rw [historyInv_of_unbounded (by rw [hcfg, hdepth])]
    cases he with
    | idle => exact h
    | cycle =>
      rw [runCycle_hist, takeInput_cfg, pushHistory_of_unbounded hdepth, histChain_cons, runCycle_live_cycle]
      exact ⟨rfl, h⟩
    | undo hhist =>
      rw [hhist] at h
      exact (histChain_cons.mp h).2
    | reset => rfl
    | construct => rfl
    | load => rfl
  | some d =>
    rw [historyInv_of_bounded hdepth] at h
    rw [historyInv_of_bounded (by rw [hcfg, hdepth])]
    cases he with
    | idle => exact h
    | cycle =>
      rw [runCycle_hist, takeInput_cfg, pushHistory_of_bounded hdepth]
      exact List.length_take_le _ _
    | undo hhist =>
      rw [hhist, List.length_cons] at h
      exact Nat.le_of_succ_le h
    | reset => exact Nat.zero_le _
    | construct => exact Nat.zero_le _
    | load => exact Nat.zero_le _

/-- Settles O45: a step pushes the Snapshot one cycle older, an undo takes it off, and the initialising events empty the
history at cycle 0. -/
theorem everyEdgeKeepsTheHistoryInvariant : Obligations.EveryEdgeKeepsTheHistoryInvariant :=
  ⟨fun _ _ h hstep => (edge_of_step hstep).historyInv h,
    fun _ hdepth h => length_of_histChain ((historyInv_of_unbounded hdepth).mp h)⟩

/-! ### Values in range -/

theorem inVal_zero (x : XLen) : inVal x 0 = true := by
  cases x with
  | unbounded => rfl
  | bits n =>
    have hpos : (0 : Int) < 2 ^ (n - 1) := by positivity
    rw [inVal_bits_iff]
    omega

theorem inVal_resultOf_value (c : Config) (op : Op) (a b : Val) (pc : Nat) (off : Option Int) :
    inVal c.xlen (resultOf c op a b pc off).value = true := by
  cases op with
  | add | sub | mul | div | lw | sw => exact inVal_wrap _ _
  | beq | bne => exact inVal_zero _

theorem Operand.inVal_forward {x : XLen} {o : Operand} (h : o.inVal x = true) (q : RobIx) {v : Val}
    (hv : Machine.inVal x v = true) : (o.forward q v).inVal x = true := by
  unfold Operand.forward
  split
  · exact hv
  · exact h

theorem ValuesInRange.of_quiescent {x : XLen} {m : Snapshot} (h : Quiescent m)
    (hrf : ∀ d, inVal x (entry m.rf d) = true) : ValuesInRange x m := by
  obtain ⟨hrs, hrob, -, -⟩ := h
  refine ⟨hrf, fun b => ?_, fun r => ?_⟩
  · rw [hrob, entry_filled]
    exact inVal_zero x
  · rw [hrs, entry_filled]
    exact ⟨inVal_zero x, inVal_zero x⟩

theorem commitWrite_inVal (c : Config) {m : Snapshot} (h : ∀ d, inVal c.xlen (entry m.rf d) = true) (e : RobEntry)
    (i : Record) (d : RegIx) : inVal c.xlen (entry (commitWrite c m e i).rf d) = true := by
  rcases commitWrite_cases c m e i with ⟨-, heq⟩ | ⟨-, x, -, heq⟩
  · rw [heq]
    exact h d
  · rw [heq, clearRename_eq, writeReg_rf, entry_setEntry]
    split
    · exact inVal_wrap _ _
    · exact h d

theorem ValuesInRange.retireHead {x : XLen} {m : Snapshot} (h : ValuesInRange x m) (e : RobEntry) (i : Record) :
    ValuesInRange x (retireHead m e i) := by
  obtain ⟨hrf, hrob, hrs⟩ := h
  refine ⟨hrf, fun b => ?_, hrs⟩
  rw [retireHead_rob, entry_setEntry]
  split
  · exact inVal_zero x
  · exact hrob b

theorem ValuesInRange.commit {c : Config} {m : Snapshot} (h : ValuesInRange c.xlen m) :
    ValuesInRange c.xlen (commitStage c m) := by
  rcases commitStage_cases c m with ⟨-, heq⟩ | ⟨-, -, i, -, ⟨-, heq⟩ | ⟨-, -, heq⟩ | ⟨-, -, heq⟩⟩
  · rwa [heq]
  · obtain ⟨hrf, hrob, hrs⟩ := h
    rw [heq]
    refine ValuesInRange.retireHead ⟨commitWrite_inVal c hrf _ i, ?_, ?_⟩ _ i
    · rwa [commitWrite_rob]
    · rwa [commitWrite_rs]
  · rw [heq]
    exact h.retireHead _ i
  · rw [heq]
    exact .of_quiescent (quiescent_commitMispredicted m _ i) h.1

theorem ValuesInRange.broadcast {c : Config} {m : Snapshot} (h : ValuesInRange c.xlen m) (p : RsIx) :
    ValuesInRange c.xlen (broadcast c m p) := by
  obtain ⟨hrf, hrob, hrs⟩ := h
  have hv : inVal c.xlen (stationResult c m (entry m.rs p)).value = true := inVal_resultOf_value _ _ _ _ _ _
  refine ⟨hrf, fun b => ?_, fun r => ?_⟩
  · rw [broadcast_rob, entry_setEntry]
    split
    · exact hv
    · exact hrob b
  · by_cases hr : r = p
    · rw [hr, broadcast_rs, entry_setEntry_same]
      exact ⟨inVal_zero _, inVal_zero _⟩
    · rw [entry_broadcast_rs_ne c m hr]
      obtain ⟨hj, hk⟩ := hrs r
      cases hbusy : (entry m.rs r).busy with
      | false =>
        rw [RsEntry.forward_of_not_busy hbusy]
        exact ⟨hj, hk⟩
      | true =>
        rw [RsEntry.forward_of_busy hbusy]
        exact ⟨Operand.inVal_forward hj _ hv, Operand.inVal_forward hk _ hv⟩

theorem readOperand_inVal {c : Config} {m : Snapshot} (h : ValuesInRange c.xlen m) (d : RegIx) :
    (readOperand c m d).inVal c.xlen = true := by
  obtain ⟨hrf, hrob, -⟩ := h
  rcases readOperand_cases c m d with ⟨-, hread⟩ | ⟨q, -, ⟨-, -, hread⟩ | ⟨-, hread⟩⟩ <;> rw [hread]
  · exact hrf d
  · exact hrob q
  · rfl

theorem ValuesInRange.dispatch {c : Config} {m : Snapshot} (h : ValuesInRange c.xlen m) (i : Record) (r : RsIx) :
    ValuesInRange c.xlen (dispatch c m i r) := by
  have hread := readOperand_inVal h
  obtain ⟨hrf, hrob, hrs⟩ := h
  refine ⟨hrf, fun b => ?_, fun p => ?_⟩
  · rw [dispatch_rob, entry_setEntry]
    split
    · exact inVal_zero _
    · exact hrob b
  · rw [dispatch_rs, entry_setEntry]
    split
    · exact ⟨hread i.rs1, hread i.rs2⟩
    · exact hrs p

theorem ValuesInRange.keptByStages (c : Config) (prog : List Record) : KeptByStages c prog (ValuesInRange c.xlen) where
  commit _ h := h.commit
  broadcast _ p _ h := h.broadcast p
  execute m h := by
    obtain ⟨hrf, hrob, hrs⟩ := h
    refine ⟨hrf, hrob, fun r => ?_⟩
    rw [entry_executeStage, RsEntry.tick_frame]
    exact hrs r
  dispatch _ i r _ _ _ h := h.dispatch i r
  bubble _ h := h
  endCycle _ h := h

/-- Settles O46: every value written is a wrapped result, an operand already there, or 0; the initial registers are the
parameters'. -/
theorem everyEdgeKeepsValuesInRange : Obligations.EveryEdgeKeepsValuesInRange := by
  intro s t hinv hstep
  obtain ⟨hlegal, hinv⟩ := hinv
  have he := edge_of_step hstep
  have ⟨_, _, hreset, hseed⟩ := hlegal
  have hkept := he.keeps_snapshots (P := fun _ => ValuesInRange s.cfg.xlen)
    (fun _ => .of_quiescent (quiescent_fresh _) hreset) (fun _ => .of_quiescent (quiescent_fresh _) hseed)
    (fun m _ => (ValuesInRange.keptByStages s.cfg s.prog).nextLive) hinv
  rw [ValuesInv, he.cfg]
  exact ⟨hlegal, hkept⟩

end Sys2Proof.Machine
end

section
/-! PROOF. What a whole step changes and what it does not (10_state R23, R25, R42; 70_reset_and_hazards R303): each
component is followed through the stages, most of which leave it alone. -/

namespace Sys2Proof.Machine

/-! ### Components that only Commit moves -/

section
variable (c : Config) (prog : List Record) (m : Snapshot)

@[simp] theorem issueStage_rf : (issueStage c prog m).rf = m.rf := by
  rcases issueStage_outcomes c prog m with h | h | ⟨i, r, -, -, -, h⟩ <;> rw [h]
  · exact bubble_rf m
  · exact dispatch_rf c m i r

@[simp] theorem issueStage_committed : (issueStage c prog m).committed = m.committed := by
  rcases issueStage_outcomes c prog m with h | h | ⟨i, r, -, -, -, h⟩ <;> rw [h]
  · exact bubble_committed m
  · exact dispatch_committed c m i r

/-- Everything the Issue stage can do to `pc` and to the log: nothing, or one further and one `ISSUE` line. -/
theorem issueStage_pc_log_cases :
    ((issueStage c prog m).pc = m.pc ∧ (issueStage c prog m).log = m.log) ∨
      ∃ i r, prog[m.pc]? = some i ∧ (issueStage c prog m).pc = m.pc + 1 ∧
        (issueStage c prog m).log = m.log ++ [.issue m.pc i r m.tail] := by
  rcases issueStage_outcomes c prog m with h | h | ⟨i, r, hi, -, -, h⟩ <;> rw [h]
  · exact .inl ⟨rfl, rfl⟩
  · exact .inl ⟨rfl, rfl⟩
  · exact .inr ⟨i, r, hi, rfl, rfl⟩

end

theorem runCycle_live_rf (s : State) : (runCycle s).live.rf = (commitStage s.cfg s.live).rf := by
  simp [stagesBeforeIssue]

theorem runCycle_live_committed (s : State) : (runCycle s).live.committed = (commitStage s.cfg s.live).committed := by
  simp [stagesBeforeIssue]

/-! ### Registers -/

theorem commitWrite_rf_of_ne {c : Config} {m : Snapshot} {e : RobEntry} {i : Record} {d : RegIx}
    (h : entry (commitWrite c m e i).rf d ≠ entry m.rf d) :
    e.dest = some d ∧ entry (commitWrite c m e i).rf d = wrap c.xlen e.value := by
  rcases commitWrite_cases c m e i with ⟨-, heq⟩ | ⟨-, x, hx, heq⟩
  · exact absurd (by rw [heq]) h
  · rw [heq, clearRename_eq, writeReg_rf] at h ⊢
    by_cases hd : d = x
    · rw [hd, entry_setEntry_same]
      exact ⟨hx, rfl⟩
    · exact absurd (entry_setEntry_ne _ _ hd) h

/-- Settles O51: only Commit writes registers, and of its cases only the retirement of a non-branch. -/
theorem registersChangeAtCommitOnly : Obligations.RegistersChangeAtCommitOnly := by
  intro s t d hstep hchange
  obtain rfl : runCycle s = t := Host.Outcome.next.inj hstep
  rw [runCycle_live_rf] at hchange ⊢
  rcases commitStage_cases s.cfg s.live with ⟨-, heq⟩ | ⟨hb, hr, i, hi, ⟨hop, heq⟩ | ⟨-, -, heq⟩ | ⟨-, -, heq⟩⟩
  · exact absurd (by rw [heq]) hchange
  · rw [heq, retireHead_rf] at hchange ⊢
    obtain ⟨hdest, hvalue⟩ := commitWrite_rf_of_ne hchange
    exact ⟨hb, hr, ⟨i, hi, hop⟩, hdest, hvalue⟩
  · exact absurd (by rw [heq, retireHead_rf]) hchange
  · exact absurd (by rw [heq, commitMispredicted_rf]) hchange

/-! ### The next index -/

/-- The slot at `head` holds a taken branch that commits now. -/
def TakenAtHead (m : Snapshot) : Prop :=
  (entry m.rob m.head).busy = true ∧ (entry m.rob m.head).state = .ready ∧ (entry m.rob m.head).shouldBranch = true ∧
    (entry m.rob m.head).instr.any (fun i => i.op.isBranch) = true

/-- Commit moves `pc` by a flush only, and logs no `ISSUE`. -/
theorem commitStage_pc_log_cases (c : Config) (m : Snapshot) :
    ((TakenAtHead m ∧ (commitStage c m).pc = (entry m.rob m.head).targetPc) ∨
        (¬TakenAtHead m ∧ (commitStage c m).pc = m.pc)) ∧
      (commitStage c m).log.countP TraceEvent.isIssue = m.log.countP TraceEvent.isIssue := by
  rcases commitStage_cases c m with ⟨hidle, heq⟩ | ⟨hb, hr, i, hi, ⟨hop, heq⟩ | ⟨hop, hsb, heq⟩ | ⟨hop, hsb, heq⟩⟩
  · rw [heq]
    refine ⟨.inr ⟨?_, rfl⟩, rfl⟩
    rintro ⟨hb, hr, -, hbranch⟩
    rcases hidle with h | h | h
    · simp [hb] at h
    · exact h hr
    · simp [h] at hbranch
  · rw [heq]
    refine ⟨.inr ⟨?_, by simp⟩, by simp [TraceEvent.isIssue]⟩
    rintro ⟨-, -, -, hbranch⟩
    simp [hi, hop] at hbranch
  · rw [heq]
    refine ⟨.inr ⟨?_, rfl⟩, by simp [TraceEvent.isIssue]⟩
    rintro ⟨-, -, hsb', -⟩
    simp [hsb] at hsb'
  · rw [heq]
    exact ⟨.inl ⟨⟨hb, hr, hsb, by simp [hi, hop]⟩, rfl⟩, by simp [TraceEvent.isIssue]⟩

/-- Settles O52: Commit leaves `pc` or sends it to the target, and Issue then adds one with its trace line,
or nothing. -/
theorem pcMovesByIssueOrFlushOnly : Obligations.PcMovesByIssueOrFlushOnly := by
  intro s t hstep e p
  obtain rfl : runCycle s = t := Host.Outcome.next.inj hstep
  obtain ⟨hpc, hcount⟩ := commitStage_pc_log_cases s.cfg s.live
  have hp : (stagesBeforeIssue s.cfg s.live).pc = p := by
    show (executeStage (writebackStage s.cfg (commitStage s.cfg s.live))).pc = p
    rw [executeStage_pc, writebackStage_pc]
    rcases hpc with ⟨htaken, hpc⟩ | ⟨huntaken, hpc⟩
    · exact hpc.trans (if_pos htaken).symm
    · exact hpc.trans (if_neg huntaken).symm
  have hlog : (stagesBeforeIssue s.cfg s.live).log = (commitStage s.cfg s.live).log := by
    simp [stagesBeforeIssue]
  rw [runCycle_live, endCycle_pc, endCycle_log]
  rcases issueStage_pc_log_cases s.cfg s.prog (stagesBeforeIssue s.cfg s.live) with ⟨hpc, hl⟩ | ⟨i, r, hi, hpc, hl⟩
  · exact .inl ⟨hpc.trans hp, by rw [hl, hlog, hcount]⟩
  · rw [hp] at hi hpc hl
    exact .inr ⟨hpc, i, r, _, hi, by rw [hl, List.getLast?_concat]⟩

/-! ### Progress -/

/-- Settles O55: the slot's record lets Commit retire or flush it, and either counts one commit. -/
theorem readyHeadCommitsNextStep : Obligations.ReadyHeadCommitsNextStep := by
  intro s hslots hbusy hready
  refine ⟨runCycle s, exec_step s, ?_⟩
  obtain ⟨i, hi, -⟩ := Option.map_eq_some_iff.mp (hslots _ hbusy)
  rw [runCycle_live_committed]
  rcases commitStage_cases s.cfg s.live with ⟨hidle, -⟩ | ⟨-, -, j, -, ⟨-, heq⟩ | ⟨-, -, heq⟩ | ⟨-, -, heq⟩⟩
  · rcases hidle with h | h | h
    · simp [hbusy] at h
    · exact absurd hready h
    · cases hi.symm.trans h
  · rw [heq, retireHead_committed, commitWrite_committed]
  · rw [heq, retireHead_committed]
  · rw [heq, commitMispredicted_committed]

/-! ### The log is invisible -/

/-- What a stage makes of a Snapshot does not depend on the log, to which it appends the same events whatever it
holds. -/
def LogBlind (f : Snapshot → Snapshot) : Prop :=
  ∀ m, ∃ events, ∀ l, f { m with log := l } = { f m with log := l ++ events }

theorem LogBlind.comp {f g : Snapshot → Snapshot} (hg : LogBlind g) (hf : LogBlind f) : LogBlind fun m => g (f m) := by
  intro m
  obtain ⟨ef, hf⟩ := hf m
  obtain ⟨eg, hg⟩ := hg (f m)
  exact ⟨ef ++ eg, fun l => (congrArg g (hf l)).trans ((hg (l ++ ef)).trans (by rw [List.append_assoc]))⟩

/-- A stage that neither reads nor writes the log. -/
theorem LogBlind.of_silent {f : Snapshot → Snapshot} (h : ∀ m l, f { m with log := l } = { f m with log := l }) :
    LogBlind f :=
  fun m => ⟨[], fun l => by rw [h, List.append_nil]⟩

theorem commitWrite_log_silent (c : Config) (m : Snapshot) (e : RobEntry) (i : Record) (l : List TraceEvent) :
    commitWrite c { m with log := l } e i = { commitWrite c m e i with log := l } := by
  cases hd : e.dest with
  | none =>
    have hkeep : ∀ m, commitWrite c m e i = m := fun m => by
      rcases commitWrite_cases c m e i with ⟨-, heq⟩ | ⟨-, d, hd', -⟩
      · exact heq
      · cases hd.symm.trans hd'
    rw [hkeep, hkeep]
  | some d => rw [commitWrite_eq c _ e i hd, commitWrite_eq c _ e i hd]

theorem commitStage_logBlind (c : Config) : LogBlind (commitStage c) := by
  intro m
  rcases commitStage_cases c m with ⟨hidle, heq⟩ | ⟨hb, hr, i, hi, ⟨hop, heq⟩ | ⟨hop, hsb, heq⟩ | ⟨hop, hsb, heq⟩⟩
  · refine ⟨[], fun l => ?_⟩
    rw [heq, List.append_nil]
    rcases commitStage_cases c { m with log := l } with ⟨-, heq'⟩ | ⟨hb', hr', i', hi', -⟩
    · exact heq'
    · rcases hidle with h | h | h
      · cases h.symm.trans hb'
      · exact absurd hr' h
      · cases h.symm.trans hi'
  · refine ⟨[.commit m.head i (entry m.rob m.head).value false], fun l => ?_⟩
    rw [heq, commitStage_of_not_branch c (m := { m with log := l }) hb hr hi hop]
    simp only [commitWrite_log_silent, retireHead, commitWrite_head]
  · refine ⟨[.commit m.head i (entry m.rob m.head).value false], fun l => ?_⟩
    rw [heq, commitStage_of_untaken c (m := { m with log := l }) hb hr hi hop hsb]
    rfl
  · refine ⟨[.commit m.head i 0 true], fun l => ?_⟩
    rw [heq, commitStage_of_taken c (m := { m with log := l }) hb hr hi hop hsb]
    rfl

theorem writebackStage_logBlind (c : Config) : LogBlind (writebackStage c) := by
  refine .of_silent fun m l => ?_
  have hfold : ∀ (rs : List RsIx) (m : Snapshot),
      rs.foldl (broadcast c) { m with log := l } = { rs.foldl (broadcast c) m with log := l } := by
    intro rs
    induction rs with
    | nil => exact fun m => rfl
    | cons r rs ih => exact fun m => ih (broadcast c m r)
  exact hfold _ m

theorem executeStage_logBlind : LogBlind executeStage := .of_silent fun _ _ => rfl

theorem endCycle_logBlind : LogBlind endCycle := .of_silent fun _ _ => rfl

theorem issueStage_logBlind (c : Config) (prog : List Record) : LogBlind (issueStage c prog) := by
  intro m
  cases hi : prog[m.pc]? with
  | none =>
    have hnone : ∀ l, issueStage c prog { m with log := l } = { m with log := l } := fun l => by
      simp only [issueStage, hi]
    exact ⟨[], fun l => by rw [hnone, List.append_nil, issueStage, hi]⟩
  | some i =>
    have hsome : ∀ l, issueStage c prog { m with log := l } = offer c { m with log := l } i := fun l => by
      simp only [issueStage, hi]
    have hself : issueStage c prog m = offer c m i := by simp only [issueStage, hi]
    rcases offer_cases c m i with ⟨hwait, ho⟩ | ⟨r, hr, hfree, ho⟩
    · refine ⟨[], fun l => ?_⟩
      rw [hsome, hself, ho, List.append_nil]
      rcases offer_cases c { m with log := l } i with ⟨-, ho'⟩ | ⟨r, hr', hfree', -⟩
      · exact ho'
      · rcases hwait with h | h
        · cases h.symm.trans hr'
        · cases h.symm.trans hfree'
    · refine ⟨[.issue m.pc i r m.tail], fun l => ?_⟩
      rw [hsome, hself, ho, offer_of_free c (m := { m with log := l }) hr hfree]
      rfl

/-- Settles O53: every stage appends its events without reading the log, and no stage reads the history. -/
theorem logAndHistoryAreInvisible : Obligations.LogAndHistoryAreInvisible := by
  intro s
  have hblind : LogBlind (nextLive s.cfg s.prog) :=
    endCycle_logBlind.comp ((issueStage_logBlind s.cfg s.prog).comp
      (executeStage_logBlind.comp ((writebackStage_logBlind s.cfg).comp (commitStage_logBlind s.cfg))))
  obtain ⟨events, hevents⟩ := hblind s.live
  exact ⟨events, fun l h => ⟨_, exec_step _, hevents l⟩⟩

end Sys2Proof.Machine
end

section
/-! PROOF. The clock edge and the port (45_host_commands R248), the initialising commands (10_state R47), what the host
sees (R245 to R247) and the hardware binding (10_state R49). -/

namespace Sys2Proof.Machine

/-! ### The edge -/

theorem exec_next (i : Instr) (s : State) : ∃ t, exec i s = .next t := by
  cases i <;> exact ⟨_, rfl⟩

theorem step_of_rst {s : State} (h : (sampledInput s).rst = true) :
    step s = .next (constructEngine (takeInput s)) := if_pos h

theorem step_of_command {s : State} (h : (sampledInput s).rst = false) :
    step s = exec (decode (.command (sampledInput s).cmd (sampledInput s).stream)) (takeInput s) :=
  if_neg (Bool.eq_false_iff.mp h)

/-- Settles O7: every arm of `exec` is a next state, and so are both cases of an edge. -/
theorem everythingCompletes : Obligations.EverythingCompletes := by
  refine ⟨fun s => ?_, exec_next⟩
  cases h : (sampledInput s).rst with
  | true => exact ⟨_, step_of_rst h⟩
  | false => rw [step_of_command h]; exact exec_next _ _

/-- Settles O8: `rst` is construction; 0 and 5 to 7 decode to `NOP`, which is the identity. -/
theorem portCommands : Obligations.PortCommands := by
  refine ⟨fun s => step_of_rst, fun s hrst hcmd => ?_, fun s => rfl⟩
  have hnop : decode (.command (sampledInput s).cmd (sampledInput s).stream) = .nop := by
    rw [decode_command, if_neg (by omega), if_neg (by omega), if_neg (by omega), if_neg (by omega)]
  rw [step_of_command hrst, hnop]
  rfl

/-! ### The instruction the edge runs -/

/-- With `STEP` on the port the edge is the cycle of the record it fetches. -/
theorem step_of_fetched {s : State} {i : Record} (hrst : (sampledInput s).rst = false) (hcmd : (sampledInput s).cmd = 1)
    (hfetch : fetchedRecord s = some i) : step s = exec (.ofRecord i) (takeInput s) := by
  have hstep : decode (.command (sampledInput s).cmd (sampledInput s).stream) = .step := by
    rw [decode_command, hcmd]
    rfl
  rw [step_of_command hrst, hstep, exec_step, exec_ofRecord, runCycle_eq_issuing (s := takeInput s) hfetch]

theorem getElem?_placeAt (p : List Record) (i : Nat) (r : Record) : (placeAt p i r)[i]? = some r := by
  unfold placeAt
  split
  next h => rw [List.getElem?_set_self h]
  next h => rw [List.getElem?_append_right (Nat.le_of_not_lt h), List.getElem?_replicate, if_pos (by omega)]

theorem fetchedRecord_presentRecord (s : State) (r : Record) : fetchedRecord (presentRecord s r) = some r :=
  getElem?_placeAt _ _ _

theorem decodeTableWord_word {w : Nat} {i : Instr} (h : decodeTableWord 32 w = some i) :
    i = .ofRecord (decodeWord (BitVec.ofNat 32 w)) := by
  have hdecode : decodeTableWord 32 w = some (decode (.word (BitVec.ofNat 32 w))) := by
    have hbytes := decodeStreamBytes_bytesOfWord (BitVec.ofNat 32 w) []
    rw [List.append_nil] at hbytes
    simp [decodeTableWord, hbytes]
  exact Option.some.inj (h.symm.trans hdecode)

theorem decodeTableWord_command {w : Nat} {i : Instr} (h : decodeTableWord 8 w = some i) :
    i = decode (.command (BitVec.ofNat 3 w) []) := by
  have hcode : (BitVec.ofNat 8 w).extractLsb' 0 3 = BitVec.ofNat 3 w := by
    apply BitVec.eq_of_toNat_eq
    rw [extract_toNat, BitVec.toNat_ofNat, BitVec.toNat_ofNat]
    omega
  unfold decodeTableWord decodeCommandBytes at h
  by_cases hsmall : (BitVec.ofNat 8 w).toNat < 8
  · simp only [hsmall, hcode, le_refl, if_true] at h
    exact (Option.some.inj h).symm
  · simp only [hsmall, le_refl, if_true, if_false] at h
    cases h

/-- Settles O6: the port's command, the fetched record, and a table word, which is placed as one or the other. -/
theorem edgeRunsTheDecodedInstruction : Obligations.EdgeRunsTheDecodedInstruction := by
  refine ⟨fun s => step_of_command, fun s i => step_of_fetched, fun s w i => ⟨fun h => ?_, fun h => ?_⟩⟩
  · rw [decodeTableWord_word h]
    exact step_of_fetched rfl rfl (fetchedRecord_presentRecord s _)
  · rw [decodeTableWord_command h]
    exact step_of_command rfl

/-! ### Reset -/

/-- Settles O35: the fresh Snapshot has the 'reset' column, and nothing but it and the history changes. -/
theorem resetKeepsOnlyTheProgram : Obligations.ResetKeepsOnlyTheProgram := fun s =>
  ⟨resetEngine s, rfl, rfl, rfl, rfl, rfl, rfl, rfl, rfl, rfl, rfl, entry_filled _, entry_filled _, entry_filled _, rfl⟩

theorem inVal_toInt (b : BitVec 32) : inVal (.bits 32) b.toInt = true :=
  (inVal_bits_iff 32 _).mpr ⟨b.le_toInt, b.toInt_lt⟩

theorem legalConfig_default : LegalConfig Config.default := by
  refine ⟨by decide, by decide, fun i => ?_, fun i => ?_⟩
  · have hzero : entry Config.default.regReset i = 0 := entry_filled _ i
    rw [hzero]
    exact inVal_zero _
  · have hseed : entry Config.default.regSeed i = (Config.freeSeed i).toInt := entry_tabulate _ i
    rw [hseed]
    exact inVal_toInt _

/-- Settles O41: nothing is in flight after reset, which leaves the invariants of the pipeline vacuous and the log, the
counters and the history at their start. -/
theorem resetMeetsTheInvariants : Obligations.ResetMeetsTheInvariants := by
  have hquiet : Quiescent State.reset.live := quiescent_fresh _
  have hlegal := legalConfig_default
  refine ⟨engineInv_iff.mpr ⟨fun i hi => (Nat.not_lt_zero i hi).elim, ?_⟩, ?_, ?_, rfl, ⟨hlegal, ?_⟩,
    .of_quiescent hquiet⟩
  · exact List.forall_mem_singleton.mpr (.of_quiescent _ hquiet)
  · exact List.forall_mem_singleton.mpr (bookInv_iff.mpr (.of_fresh _))
  · exact List.forall_mem_singleton.mpr (OrderInv.of_fresh [] _).order
  · obtain ⟨-, -, hreset, -⟩ := hlegal
    exact List.forall_mem_singleton.mpr (.of_quiescent hquiet hreset)

/-! ### What the host sees -/

/-- Settles O57: a table is its entries, and the metrics are the four counters; no view is a function of the history. -/
theorem accessorsShowAllButTheHistory : Obligations.AccessorsShowAllButTheHistory := by
  refine ⟨fun s t hrs hrob hrf hrst hlog hpc hhead htail hprog hmetrics => ⟨?_, hprog⟩,
    fun s h => ⟨rfl, rfl, rfl, rfl, rfl, rfl, rfl, rfl, rfl, rfl, rfl, rfl⟩⟩
  have hcycle : s.live.cycle = t.live.cycle := congrArg Metrics.cycles hmetrics
  have hcommitted : s.live.committed = t.live.committed := congrArg Metrics.instructions hmetrics
  have hbubbles : s.live.bubbles = t.live.bubbles := congrArg Metrics.bubbles hmetrics
  have hflushes : s.live.flushes = t.live.flushes := congrArg Metrics.flushes hmetrics
  calc s.live = ⟨s.live.cycle, s.live.pc, s.live.rs, s.live.rob, s.live.head, s.live.tail, s.live.rf, s.live.rst,
        s.live.committed, s.live.bubbles, s.live.flushes, s.live.log⟩ := rfl
    _ = ⟨t.live.cycle, t.live.pc, t.live.rs, t.live.rob, t.live.head, t.live.tail, t.live.rf, t.live.rst,
        t.live.committed, t.live.bubbles, t.live.flushes, t.live.log⟩ :=
      Snapshot.mk.injEq .. |>.mpr ⟨hcycle, hpc, table_ext hrs, table_ext hrob, hhead, htail, table_ext hrf,
      table_ext hrst,
        hcommitted, hbubbles, hflushes, hlog⟩

/-! ### The hardware binding -/

theorem robStateOfCode_eq (k : BitVec 2) :
    robStateOfCode k =
      if k.toNat = 0 then some .waiting else if k.toNat = 1 then some .executing else if k.toNat = 2 then some .ready
      else none := by decide +revert

theorem latency_le (op : Op) : latency op ≤ 10 := by cases op <;> decide

/-- A value in range survives being held in `XLEN` bits. -/
theorem toInt_ofInt_of_inVal {n : Nat} (hn : n ≠ 0) {v : Int} (h : inVal (.bits n) v = true) :
    (BitVec.ofInt n v).toInt = v := by
  obtain ⟨hlow, hhigh⟩ := (inVal_bits_iff n v).mp h
  exact BitVec.toInt_ofInt_eq_self (Nat.pos_of_ne_zero hn) hlow hhigh

/-- Settles O58: the codes by cases; the countdown is at most the latency ((I6)) or 0; a value in range needs no more
than `XLEN` bits. -/
theorem fieldsFitTheirWidths : Obligations.FieldsFitTheirWidths := by
  refine ⟨robStateOfCode_eq, fun x => by cases x <;> rfl, fun c prog m hlegal hok hvalues => ⟨fun r => ?_, fun n hn =>
    ?_⟩⟩
  · have hinv := pipelineOk_iff.mp hok
    have hle : (entry m.rs r).lat ≤ 10 := by
      cases hbusy : (entry m.rs r).busy with
      | true => exact (hinv.countdown r hbusy).1.trans (latency_le _)
      | false => rw [hinv.canonical.2.2 r hbusy]; exact Nat.zero_le _
    have hwidth : 10 < 2 ^ 4 := by decide
    exact hle.trans_lt hwidth
  · obtain ⟨hxlen, -⟩ := hlegal
    obtain ⟨hrf, hrob, -⟩ := hvalues
    cases hx : c.xlen with
    | unbounded => simp [fieldWidths, valWidth, hx] at hn
    | bits k =>
      obtain rfl : k = n := by simpa [fieldWidths, valWidth, hx] using hn
      have hk : k ≠ 0 := fun h => hxlen (by rw [hx, h])
      rw [hx] at hrf hrob
      exact ⟨fun d => toInt_ofInt_of_inVal hk (hrf d), fun b => toInt_ofInt_of_inVal hk (hrob b)⟩

end Sys2Proof.Machine
end
